-- ==== Sys2Proof/Word.lean ====
section
/-! DEFINITION. The widths of the CHIP-8 core's values. All values are unsigned (00_scope.md R13). -/

namespace Sys2Proof

/-- A byte: a register, a timer, a cell of `MEM` (10_state.md R21, R28, R31). -/
abbrev Byte := BitVec 8

/-- A 16-bit word: an instruction, `PC`, `I`, a stack entry (10_state.md R24, R26, R27, R30). -/
abbrev Word := BitVec 16

/-- A 12-bit address field `nnn` (30_encoding.md R64). -/
abbrev Addr := BitVec 12

/-- A 4-bit count field `n` (30_encoding.md R64). -/
abbrev Nibble := BitVec 4

end Sys2Proof
end

