-- ==== Sys2Proof/Machine/Flags.lean ====
section
/-! DEFINITION. The values `VF` takes as a flag (10_state.md R22, 42_load_arith.md R114). All
operands are unsigned (R112). -/

namespace Sys2Proof.Machine

/-- A flag as the byte written to `VF`: 1 or 0. -/
def flagByte (c : Bool) : Byte := if c then 1#8 else 0#8

/-- `ADD Vx, Vy`: carry out of bit 7 (42_load_arith.md R107). -/
def carryOut (a b : Byte) : Bool := decide (a.toNat + b.toNat > 0xFF)

/-- `SUB` and `SUBN`, for `a - b`: strictly greater, so equal operands give 0 (42_load_arith.md R108,
R109, 93_implementation_defined.md U9). -/
def noBorrow (a b : Byte) : Bool := decide (a.toNat > b.toNat)

/-- `SHR`: the old bit 0 (42_load_arith.md R110). -/
def shiftedOutLow (a : Byte) : Bool := a.getLsbD 0

/-- `SHL`: the old bit 7 (42_load_arith.md R111). -/
def shiftedOutHigh (a : Byte) : Bool := a.getLsbD 7

/-- `ADD I, Vx`: overflow past 0xFFF; no overflow gives 0 (43_index_memory.md R116, decision D5, log
entry 11). -/
def indexOverflow (i : Word) (b : Byte) : Bool := decide (i.toNat + b.toNat > 0xFFF)

end Sys2Proof.Machine
end

