-- ==== Sys2Proof/Machine/Grid.lean ====
section
/-! DEFINITION. The display surface's 64 x 32 grid `FB` (10_state.md R36) and its two operations,
`clear` and `blit` (45_display.md R126). -/

namespace Sys2Proof.Machine

/-- `FB`: 32 rows of 64 pixels. Bit `c` of a row is the pixel of column `c` (log entry 22). -/
abbrev Grid := Vector (BitVec 64) 32

/-- Every pixel clear, what `clear()` leaves (10_state.md R36). -/
def Grid.blank : Grid := Vector.replicate 32 0#64

/-- `FB[row][col]`. -/
def Grid.pixel (g : Grid) (row : Fin 32) (col : Fin 64) : Bool := g[row.val].getLsbD col.val

/-- `FB[row][col] <- FB[row][col] ^ 1`. -/
def Grid.flip (g : Grid) (row : Fin 32) (col : Fin 64) : Grid :=
  g.set row.val (g[row.val] ^^^ (1#64 <<< col.val))

/-- The row `(cy + r) mod 32` (45_display.md R126, decision D12, log entry 16). -/
def wrapRow (cy : Byte) (r : Nat) : Fin 32 := ⟨(cy.toNat + r) % 32, Nat.mod_lt _ (by decide)⟩

/-- The column `(cx + c) mod 64` (45_display.md R126, decision D12, log entry 16). -/
def wrapCol (cx : Byte) (c : Nat) : Fin 64 := ⟨(cx.toNat + c) % 64, Nat.mod_lt _ (by decide)⟩

/-- Bit `c` of a sprite row, counted from the left: bit 7 is the leftmost pixel (45_display.md
R126). -/
def spriteBit (b : Byte) (c : Nat) : Bool := b.getLsbD (7 - c)

/-- XOR one set sprite pixel onto the grid; the flag records a pixel that was set before. -/
def Grid.plot (st : Grid × Bool) (row : Fin 32) (col : Fin 64) : Grid × Bool :=
  (st.1.flip row col, st.2 || st.1.pixel row col)

/-- The inner loop of `Blit`: one sprite row of 8 pixels. -/
def Grid.blitRow (b : Byte) (row : Fin 32) (cx : Byte) (st : Grid × Bool) : Grid × Bool :=
  (List.range 8).foldl
    (fun st c => if spriteBit b c then Grid.plot st row (wrapCol cx c) else st) st

/-- The outer loop of `Blit`, from sprite row `r` on. -/
def Grid.blitRows (cx cy : Byte) : Nat → List Byte → Grid × Bool → Grid × Bool
  | _, [], st => st
  | r, b :: bs, st => Grid.blitRows cx cy (r + 1) bs (Grid.blitRow b (wrapRow cy r) cx st)

/-- `Blit(rows, cx, cy)`: the new grid and `collided` (45_display.md R126, followed where R127 differs,
log entry 29). -/
def Grid.blit (g : Grid) (rows : List Byte) (cx cy : Byte) : Grid × Bool :=
  Grid.blitRows cx cy 0 rows (g, false)

end Sys2Proof.Machine
end

