-- ==== Sys2Proof/Config.lean ====
section
/-! DEFINITION. The block's parameters (00_scope.md R10), and what comes from outside the block and the
spec leaves open: the draws of 00_scope.md R18, as constants with no body, so that no proof can see
their values (log entries 1, 2 and 7). -/

namespace Sys2Proof

/-- The values 00_scope.md R10 marks "parameter": the step and the reset take them as an argument
(log entry 30). -/
structure Params where
  /-- `FONT` (10_state.md R33). -/
  font : Vector Byte 80
  /-- `STRICT_DECODE` (30_encoding.md R70). -/
  strictDecode : Bool
  /-- `RESET_ARBITRARY` (10_state.md R42). -/
  resetArbitrary : Bool
  /-- `CPU_HZ`, the driver's instruction rate; no rule depends on it, and nothing reads it
  (70_reset_and_hazards.md R177). -/
  cpuHz : Nat
  deriving DecidableEq, Repr

/-- The outside inputs of one step, plain data: the key snapshot (10_state.md R37), the random byte
(R39), the choice of `any_pressed()` among the keys down (47_input.md R133), and how many ticks of
each timer fall between this step and the next (60_exceptions.md R151). -/
structure Input where
  /-- `Keys()`: bit `k` is 1 when key `k` is down. -/
  keys : BitVec 16
  /-- `Rand()`. -/
  rand : Byte
  /-- Which of the keys down `any_pressed()` answers: its place among them, lowest key first,
  counted round from 0. -/
  pick : Nat
  /-- Ticks of `DT` after this step and before the next. -/
  dtTicks : Nat
  /-- Ticks of `ST` after this step and before the next. -/
  stTicks : Nat
  deriving DecidableEq, Repr

/-- FREE VALUE: the key snapshot of the `k`-th drawn step (decision D32). -/
opaque Config.keys : Nat → BitVec 16

/-- FREE VALUE: the random byte of the `k`-th drawn step (44_random.md R123, decision D23). -/
opaque Config.rand : Nat → Byte

/-- FREE VALUE: the choice among several keys down in the `k`-th drawn step (decision D10). -/
opaque Config.pick : Nat → Nat

/-- FREE VALUE: the ticks of `DT` after the `k`-th drawn step (decision D17). -/
opaque Config.dtTicks : Nat → Nat

/-- FREE VALUE: the ticks of `ST` after the `k`-th drawn step (decision D17). -/
opaque Config.stTicks : Nat → Nat

/-- The inputs of the `k`-th drawn step: nothing constrains any of them. -/
def Config.input (k : Nat) : Input where
  keys := Config.keys k
  rand := Config.rand k
  pick := Config.pick k
  dtTicks := Config.dtTicks k
  stTicks := Config.stTicks k

/-- FREE VALUE: what the `k`-th reset leaves in each register under `RESET_ARBITRARY = true`
(10_state.md R42). -/
opaque Config.resetV (k : Nat) : Nat → Byte

/-- FREE VALUE: what the `k`-th reset leaves in `I` under `RESET_ARBITRARY = true`, 12 bits of value
(R26, R42). -/
opaque Config.resetI (k : Nat) : Addr

/-- FREE VALUE: what the `k`-th reset leaves in `DT` under `RESET_ARBITRARY = true` (R42). -/
opaque Config.resetDt (k : Nat) : Byte

/-- FREE VALUE: what the `k`-th reset leaves in `ST` under `RESET_ARBITRARY = true` (R42). -/
opaque Config.resetSt (k : Nat) : Byte

/-- FREE VALUE: what the `k`-th reset leaves in each byte of `MEM[0x050..0x1FF]` under
`RESET_ARBITRARY = true` (R42). -/
opaque Config.resetMem (k : Nat) : Nat → Byte

end Sys2Proof
end

