-- ==== Sys2Proof/Syntax.lean ====
section
/-! DEFINITION. The 35 instructions (30_encoding.md R67), one constructor per row of
spec/opcode_table.json, in the table's order. -/

namespace Sys2Proof

/-- The number of a general register, V0 to VF: always 0 to 15 by construction (10_state.md R21). -/
abbrev Reg := Fin 16

/-- The decoded instruction: the variant and the fields that variant uses (30_encoding.md R69, R77). -/
inductive Instr where
  /-- `CLS`, 45_display.md R124. -/
  | cls
  /-- `RET`, 40_flow.md R92. -/
  | ret
  /-- `SYS addr`, 48_unimplemented.md R135. -/
  | sys (nnn : Addr)
  /-- `JP addr`, 40_flow.md R90. -/
  | jp (nnn : Addr)
  /-- `CALL addr`, 40_flow.md R91. -/
  | call (nnn : Addr)
  /-- `SE Vx, byte`, 41_skip.md R94. -/
  | seByte (x : Reg) (kk : Byte)
  /-- `SNE Vx, byte`, 41_skip.md R95. -/
  | sneByte (x : Reg) (kk : Byte)
  /-- `SE Vx, Vy`, 41_skip.md R96. -/
  | seReg (x y : Reg)
  /-- `LD Vx, byte`, 42_load_arith.md R101. -/
  | ldByte (x : Reg) (kk : Byte)
  /-- `ADD Vx, byte`, 42_load_arith.md R102. -/
  | addByte (x : Reg) (kk : Byte)
  /-- `LD Vx, Vy`, 42_load_arith.md R103. -/
  | ldReg (x y : Reg)
  /-- `OR Vx, Vy`, 42_load_arith.md R104. -/
  | orReg (x y : Reg)
  /-- `AND Vx, Vy`, 42_load_arith.md R105. -/
  | andReg (x y : Reg)
  /-- `XOR Vx, Vy`, 42_load_arith.md R106. -/
  | xorReg (x y : Reg)
  /-- `ADD Vx, Vy`, 42_load_arith.md R107. -/
  | addReg (x y : Reg)
  /-- `SUB Vx, Vy`, 42_load_arith.md R108. -/
  | subReg (x y : Reg)
  /-- `SHR Vx, Vy`: the field `y` is encoded and ignored, 42_load_arith.md R110. -/
  | shrReg (x y : Reg)
  /-- `SUBN Vx, Vy`, 42_load_arith.md R109. -/
  | subnReg (x y : Reg)
  /-- `SHL Vx, Vy`: the field `y` is encoded and ignored, 42_load_arith.md R111. -/
  | shlReg (x y : Reg)
  /-- `SNE Vx, Vy`, 41_skip.md R97. -/
  | sneReg (x y : Reg)
  /-- `LD I, addr`, 43_index_memory.md R115. -/
  | ldI (nnn : Addr)
  /-- `JP V0, addr`, 40_flow.md R93. -/
  | jpV0 (nnn : Addr)
  /-- `RND Vx, byte`, 44_random.md R122. -/
  | rnd (x : Reg) (kk : Byte)
  /-- `DRW Vx, Vy, nibble`, 45_display.md R125. -/
  | drw (x y : Reg) (n : Nibble)
  /-- `SKP Vx`, 41_skip.md R98. -/
  | skp (x : Reg)
  /-- `SKNP Vx`, 41_skip.md R99. -/
  | sknp (x : Reg)
  /-- `LD Vx, DT`, 46_timers.md R130. -/
  | ldVxDt (x : Reg)
  /-- `LD Vx, K`, 47_input.md R133. -/
  | ldVxK (x : Reg)
  /-- `LD DT, Vx`, 46_timers.md R131. -/
  | ldDtVx (x : Reg)
  /-- `LD ST, Vx`, 46_timers.md R132. -/
  | ldStVx (x : Reg)
  /-- `ADD I, Vx`, 43_index_memory.md R116. -/
  | addI (x : Reg)
  /-- `LD F, Vx`, 43_index_memory.md R117. -/
  | ldF (x : Reg)
  /-- `LD B, Vx`, 43_index_memory.md R118. -/
  | ldB (x : Reg)
  /-- `LD [I], Vx`, 43_index_memory.md R119. -/
  | ldMemVx (x : Reg)
  /-- `LD Vx, [I]`, 43_index_memory.md R120. -/
  | ldVxMem (x : Reg)
  deriving DecidableEq, Repr

end Sys2Proof
end

