-- ==== Sys2Proof/WellFormed.lean ====
section
/-! DEFINITION. Which instructions have an encoding of their own. The field widths are in the types;
one check is left: a `SYS` whose word is that of `CLS` or `RET` (48_unimplemented.md R135). -/

namespace Sys2Proof

/-- The `nnn` fields whose class-0 word decodes as `CLS` or `RET`, not as `SYS`: with
`STRICT_DECODE = true` the two words `00E0` and `00EE`, with `false` every word whose low byte is
`E0` or `EE` (30_encoding.md R70, 48_unimplemented.md R135). -/
def sysReserved (strict : Bool) (nnn : Addr) : Bool :=
  if strict then nnn == 0x0E0#12 || nnn == 0x0EE#12
  else nnn.extractLsb' 0 8 == 0xE0#8 || nnn.extractLsb' 0 8 == 0xEE#8

/-- An instruction is well formed when its word decodes back to it. -/
def Instr.wf (strict : Bool) : Instr → Bool
  | .sys nnn => !sysReserved strict nnn
  | _ => true

end Sys2Proof
end

