-- ==== Sys2Proof/Decode.lean ====
section
/-! DEFINITION. The decoder of 30_encoding.md R69 (with the parameter `STRICT_DECODE` of R70), total
and rejecting by name, and after it the encoder, from the opcode map of R67. -/

namespace Sys2Proof

/-- The parameter `STRICT_DECODE`, at the value this hardware takes (00_scope.md R10, 30_encoding.md
R70, log entry 5). The decoder takes it as an argument, so both values are modelled. -/
def Config.strictDecode : Bool := false

/-- Why bytes are no instruction. -/
inductive DecodeError where
  /-- A word that is none of the 35 instructions; it carries the raw word (30_encoding.md R71). -/
  | unknownOpcode (word : Word)
  /-- Fewer than the two bytes every instruction has (30_encoding.md R61); the step never raises
  this one, since its fetch reads two bytes or faults. -/
  | truncated
  deriving DecidableEq, Repr

/-! ### Fields (30_encoding.md R64) -/

/-- `W[15:12]`, the leading nibble. -/
def fieldClass (w : Word) : Nibble := w.extractLsb' 12 4

/-- `x = W[11:8]`. -/
def fieldX (w : Word) : Reg := (w.extractLsb' 8 4).toFin

/-- `y = W[7:4]`. -/
def fieldY (w : Word) : Reg := (w.extractLsb' 4 4).toFin

/-- `n = W[3:0]`. -/
def fieldN (w : Word) : Nibble := w.extractLsb' 0 4

/-- `kk = W[7:0]`. -/
def fieldKK (w : Word) : Byte := w.extractLsb' 0 8

/-- `nnn = W[11:0]`. -/
def fieldNNN (w : Word) : Addr := w.extractLsb' 0 12

/-! ### The secondary dispatches (30_encoding.md R69) -/

/-- Class 0x0, on the trailing byte; strictly, on all twelve low bits (R70). -/
def decodeClass0 (strict : Bool) (w : Word) : Instr :=
  if strict then
    if fieldNNN w = 0x0E0#12 then .cls
    else if fieldNNN w = 0x0EE#12 then .ret
    else .sys (fieldNNN w)
  else
    if fieldKK w = 0xE0#8 then .cls
    else if fieldKK w = 0xEE#8 then .ret
    else .sys (fieldNNN w)

/-- Classes 0x5 and 0x9: the low nibble is ignored, but strictly it must be 0 (R70). -/
def decodeRegSkip (strict : Bool) (w : Word) (i : Instr) : Except DecodeError Instr :=
  if strict = true ∧ fieldN w ≠ 0x0#4 then .error (.unknownOpcode w) else .ok i

/-- Class 0x8, on the trailing nibble. -/
def decodeClass8 (w : Word) : Except DecodeError Instr :=
  match fieldN w with
  | 0x0#4 => .ok (.ldReg (fieldX w) (fieldY w))
  | 0x1#4 => .ok (.orReg (fieldX w) (fieldY w))
  | 0x2#4 => .ok (.andReg (fieldX w) (fieldY w))
  | 0x3#4 => .ok (.xorReg (fieldX w) (fieldY w))
  | 0x4#4 => .ok (.addReg (fieldX w) (fieldY w))
  | 0x5#4 => .ok (.subReg (fieldX w) (fieldY w))
  | 0x6#4 => .ok (.shrReg (fieldX w) (fieldY w))
  | 0x7#4 => .ok (.subnReg (fieldX w) (fieldY w))
  | 0xE#4 => .ok (.shlReg (fieldX w) (fieldY w))
  | _ => .error (.unknownOpcode w)

/-- Class 0xE, on the trailing byte. -/
def decodeClassE (w : Word) : Except DecodeError Instr :=
  match fieldKK w with
  | 0x9E#8 => .ok (.skp (fieldX w))
  | 0xA1#8 => .ok (.sknp (fieldX w))
  | _ => .error (.unknownOpcode w)

/-- Class 0xF, on the trailing byte. -/
def decodeClassF (w : Word) : Except DecodeError Instr :=
  match fieldKK w with
  | 0x07#8 => .ok (.ldVxDt (fieldX w))
  | 0x0A#8 => .ok (.ldVxK (fieldX w))
  | 0x15#8 => .ok (.ldDtVx (fieldX w))
  | 0x18#8 => .ok (.ldStVx (fieldX w))
  | 0x1E#8 => .ok (.addI (fieldX w))
  | 0x29#8 => .ok (.ldF (fieldX w))
  | 0x33#8 => .ok (.ldB (fieldX w))
  | 0x55#8 => .ok (.ldMemVx (fieldX w))
  | 0x65#8 => .ok (.ldVxMem (fieldX w))
  | _ => .error (.unknownOpcode w)

/-- The decode function `decode(W)` of 30_encoding.md R69, by the leading nibble (R68). -/
def decodeWord (strict : Bool) (w : Word) : Except DecodeError Instr :=
  match fieldClass w with
  | 0x0#4 => .ok (decodeClass0 strict w)
  | 0x1#4 => .ok (.jp (fieldNNN w))
  | 0x2#4 => .ok (.call (fieldNNN w))
  | 0x3#4 => .ok (.seByte (fieldX w) (fieldKK w))
  | 0x4#4 => .ok (.sneByte (fieldX w) (fieldKK w))
  | 0x5#4 => decodeRegSkip strict w (.seReg (fieldX w) (fieldY w))
  | 0x6#4 => .ok (.ldByte (fieldX w) (fieldKK w))
  | 0x7#4 => .ok (.addByte (fieldX w) (fieldKK w))
  | 0x8#4 => decodeClass8 w
  | 0x9#4 => decodeRegSkip strict w (.sneReg (fieldX w) (fieldY w))
  | 0xA#4 => .ok (.ldI (fieldNNN w))
  | 0xB#4 => .ok (.jpV0 (fieldNNN w))
  | 0xC#4 => .ok (.rnd (fieldX w) (fieldKK w))
  | 0xD#4 => .ok (.drw (fieldX w) (fieldY w) (fieldN w))
  | 0xE#4 => decodeClassE w
  | _ => decodeClassF w

/-- The word of two bytes, the first in bits 15:8 (20_memory.md R46). -/
def bigEndian (hi lo : Byte) : Word := hi ++ lo

/-- The decoder on bytes: it consumes two (30_encoding.md R61) and returns the rest. -/
def decodeBytes (strict : Bool) : List Byte → Except DecodeError (Instr × List Byte)
  | hi :: lo :: rest => (decodeWord strict (bigEndian hi lo)).map (fun i => (i, rest))
  | _ => .error .truncated

/-! ### The encoder (30_encoding.md R63, R67) -/

/-- Format `A`: `oooo aaaa aaaa aaaa`. -/
def packA (op : Nibble) (nnn : Addr) : Word := op ++ nnn

/-- Format `XKK` (and `X`, with the function byte for `kk`): `oooo xxxx kkkk kkkk`. -/
def packXKK (op : Nibble) (x : Reg) (kk : Byte) : Word := op ++ (BitVec.ofFin x : Nibble) ++ kk

/-- Formats `XY` and `XYN`: `oooo xxxx yyyy nnnn`. -/
def packXYN (op : Nibble) (x y : Reg) (n : Nibble) : Word :=
  op ++ (BitVec.ofFin x : Nibble) ++ (BitVec.ofFin y : Nibble) ++ n

/-- The word of an instruction, from the opcode map of R67. The bits a form ignores are 0. -/
def encode : Instr → Word
  | .cls => 0x00E0#16
  | .ret => 0x00EE#16
  | .sys nnn => packA 0x0#4 nnn
  | .jp nnn => packA 0x1#4 nnn
  | .call nnn => packA 0x2#4 nnn
  | .seByte x kk => packXKK 0x3#4 x kk
  | .sneByte x kk => packXKK 0x4#4 x kk
  | .seReg x y => packXYN 0x5#4 x y 0x0#4
  | .ldByte x kk => packXKK 0x6#4 x kk
  | .addByte x kk => packXKK 0x7#4 x kk
  | .ldReg x y => packXYN 0x8#4 x y 0x0#4
  | .orReg x y => packXYN 0x8#4 x y 0x1#4
  | .andReg x y => packXYN 0x8#4 x y 0x2#4
  | .xorReg x y => packXYN 0x8#4 x y 0x3#4
  | .addReg x y => packXYN 0x8#4 x y 0x4#4
  | .subReg x y => packXYN 0x8#4 x y 0x5#4
  | .shrReg x y => packXYN 0x8#4 x y 0x6#4
  | .subnReg x y => packXYN 0x8#4 x y 0x7#4
  | .shlReg x y => packXYN 0x8#4 x y 0xE#4
  | .sneReg x y => packXYN 0x9#4 x y 0x0#4
  | .ldI nnn => packA 0xA#4 nnn
  | .jpV0 nnn => packA 0xB#4 nnn
  | .rnd x kk => packXKK 0xC#4 x kk
  | .drw x y n => packXYN 0xD#4 x y n
  | .skp x => packXKK 0xE#4 x 0x9E#8
  | .sknp x => packXKK 0xE#4 x 0xA1#8
  | .ldVxDt x => packXKK 0xF#4 x 0x07#8
  | .ldVxK x => packXKK 0xF#4 x 0x0A#8
  | .ldDtVx x => packXKK 0xF#4 x 0x15#8
  | .ldStVx x => packXKK 0xF#4 x 0x18#8
  | .addI x => packXKK 0xF#4 x 0x1E#8
  | .ldF x => packXKK 0xF#4 x 0x29#8
  | .ldB x => packXKK 0xF#4 x 0x33#8
  | .ldMemVx x => packXKK 0xF#4 x 0x55#8
  | .ldVxMem x => packXKK 0xF#4 x 0x65#8

/-- The bytes of a word as `MEM` holds them, bits 15:8 at the lower address (20_memory.md R46). -/
def wordBytes (w : Word) : List Byte := [w.extractLsb' 8 8, w.extractLsb' 0 8]

/-- The bytes of an instruction. -/
def encodeBytes (i : Instr) : List Byte := wordBytes (encode i)

/-- The rows of spec/opcode_table.json, as (match, mask): with `STRICT_DECODE = false` the mask of
`CLS` and `RET` leaves out `x`, and that of `SE Vx,Vy` and `SNE Vx,Vy` the low nibble (R70). -/
def tableRow (strict : Bool) : Instr → Word × Word
  | .cls => (0x00E0#16, if strict then 0xFFFF#16 else 0xF0FF#16)
  | .ret => (0x00EE#16, if strict then 0xFFFF#16 else 0xF0FF#16)
  | .sys _ => (0x0000#16, 0xF000#16)
  | .jp _ => (0x1000#16, 0xF000#16)
  | .call _ => (0x2000#16, 0xF000#16)
  | .seByte _ _ => (0x3000#16, 0xF000#16)
  | .sneByte _ _ => (0x4000#16, 0xF000#16)
  | .seReg _ _ => (0x5000#16, if strict then 0xF00F#16 else 0xF000#16)
  | .ldByte _ _ => (0x6000#16, 0xF000#16)
  | .addByte _ _ => (0x7000#16, 0xF000#16)
  | .ldReg _ _ => (0x8000#16, 0xF00F#16)
  | .orReg _ _ => (0x8001#16, 0xF00F#16)
  | .andReg _ _ => (0x8002#16, 0xF00F#16)
  | .xorReg _ _ => (0x8003#16, 0xF00F#16)
  | .addReg _ _ => (0x8004#16, 0xF00F#16)
  | .subReg _ _ => (0x8005#16, 0xF00F#16)
  | .shrReg _ _ => (0x8006#16, 0xF00F#16)
  | .subnReg _ _ => (0x8007#16, 0xF00F#16)
  | .shlReg _ _ => (0x800E#16, 0xF00F#16)
  | .sneReg _ _ => (0x9000#16, if strict then 0xF00F#16 else 0xF000#16)
  | .ldI _ => (0xA000#16, 0xF000#16)
  | .jpV0 _ => (0xB000#16, 0xF000#16)
  | .rnd _ _ => (0xC000#16, 0xF000#16)
  | .drw _ _ _ => (0xD000#16, 0xF000#16)
  | .skp _ => (0xE09E#16, 0xF0FF#16)
  | .sknp _ => (0xE0A1#16, 0xF0FF#16)
  | .ldVxDt _ => (0xF007#16, 0xF0FF#16)
  | .ldVxK _ => (0xF00A#16, 0xF0FF#16)
  | .ldDtVx _ => (0xF015#16, 0xF0FF#16)
  | .ldStVx _ => (0xF018#16, 0xF0FF#16)
  | .addI _ => (0xF01E#16, 0xF0FF#16)
  | .ldF _ => (0xF029#16, 0xF0FF#16)
  | .ldB _ => (0xF033#16, 0xF0FF#16)
  | .ldMemVx _ => (0xF055#16, 0xF0FF#16)
  | .ldVxMem _ => (0xF065#16, 0xF0FF#16)

/-- The instruction the decoder reads from an instruction whose bits are `w`, numbered as
spec/opcode_table.json numbers them; every row is one word of 16 bits. -/
def decodeTableWord (nbits w : Nat) : Option Instr :=
  match decodeBytes Config.strictDecode (wordBytes (BitVec.ofNat 16 (w % 2 ^ nbits))) with
  | .ok (i, _) => some i
  | .error _ => none

end Sys2Proof
end

