-- ==== Sys2Proof/Machine/Layout.lean ====
section
/-! DEFINITION. The block's fixed sizes and addresses (00_scope.md R10), the font, and what each
byte of `MEM` holds after reset. -/

namespace Sys2Proof

/-- The parameter `FONT` at its default: 16 glyphs of 5 bytes, glyph `d` at `5 * d`, top row first
(10_state.md R33, log entry 6). -/
def Config.font : List Byte :=
  [0xF0#8, 0x90#8, 0x90#8, 0x90#8, 0xF0#8] ++ [0x20#8, 0x60#8, 0x20#8, 0x20#8, 0x70#8] ++
  [0xF0#8, 0x10#8, 0xF0#8, 0x80#8, 0xF0#8] ++ [0xF0#8, 0x10#8, 0xF0#8, 0x10#8, 0xF0#8] ++
  [0x90#8, 0x90#8, 0xF0#8, 0x10#8, 0x10#8] ++ [0xF0#8, 0x80#8, 0xF0#8, 0x10#8, 0xF0#8] ++
  [0xF0#8, 0x80#8, 0xF0#8, 0x90#8, 0xF0#8] ++ [0xF0#8, 0x10#8, 0x20#8, 0x40#8, 0x40#8] ++
  [0xF0#8, 0x90#8, 0xF0#8, 0x90#8, 0xF0#8] ++ [0xF0#8, 0x90#8, 0xF0#8, 0x10#8, 0xF0#8] ++
  [0xF0#8, 0x90#8, 0xF0#8, 0x90#8, 0x90#8] ++ [0xE0#8, 0x90#8, 0xE0#8, 0x90#8, 0xE0#8] ++
  [0xF0#8, 0x80#8, 0x80#8, 0x80#8, 0xF0#8] ++ [0xE0#8, 0x90#8, 0x90#8, 0x90#8, 0xE0#8] ++
  [0xF0#8, 0x80#8, 0xF0#8, 0x80#8, 0xF0#8] ++ [0xF0#8, 0x80#8, 0xF0#8, 0x80#8, 0x80#8]

/-- The parameter `RESET_ARBITRARY` at its default (00_scope.md R10, 10_state.md R42). -/
def Config.resetArbitrary : Bool := false

/-- The parameter `CPU_HZ` at its default (00_scope.md R10). -/
def Config.cpuHz : Nat := 500

/-- The parameters at the values this hardware takes (00_scope.md R10, log entry 30). -/
def Config.params : Params where
  font := ⟨Config.font.toArray, rfl⟩
  strictDecode := Config.strictDecode
  resetArbitrary := Config.resetArbitrary
  cpuHz := Config.cpuHz

namespace Machine

/-- `MEM_SIZE`: addresses 0x000 to 0xFFF (00_scope.md R10). -/
def memSize : Nat := 4096

/-- `PROG_START`, where a ROM is loaded and execution begins (00_scope.md R10, 10_state.md R42). -/
def progStart : Nat := 0x200

/-- The first address of the reserved range that holds no font (20_memory.md R53). -/
def reservedStart : Nat := 0x050

/-- What the byte at `a` holds after reset with the parameters at their defaults, and so what an
address that memory does not list reads as: the default font below 0x050, 0 elsewhere (10_state.md
R42, 70_reset_and_hazards.md R163, log entry 8). -/
def resetByte (a : Nat) : Byte := Config.font.getD a 0#8

/-- The address of the glyph of digit `d` at `FONT_BASE = 0`, all 8 bits of `d` used
(43_index_memory.md R117, decision D8, log entry 14). -/
def glyphAddr (d : Byte) : Word := d.setWidth 16 * 5#16

end Machine

end Sys2Proof
end

