-- ==== Sys2Proof/Machine/Memory.lean ====
section
/-! DEFINITION. `MEM` (20_memory.md R45) as plain data: the bytes that differ from their reset
contents, by rising address, and the operations that read and write it. -/

namespace Sys2Proof.Machine

/-- The listed bytes of `MEM`: (address, byte), addresses strictly rising. -/
abbrev Memory := List Host.Cell

/-- The byte at `a` (20_memory.md R52); an unlisted address reads as after reset. -/
def Memory.read : Memory → Nat → Byte
  | [], a => resetByte a
  | (b, y) :: m, a => if a = b then y else Memory.read m a

/-- The memory without any entry for `a`. -/
def Memory.forget (m : Memory) (a : Nat) : Memory := m.filter (fun c => c.1 != a)

/-- Put an entry before the first one at a higher address. -/
def Memory.place (a : Nat) (y : Byte) : Memory → Memory
  | [] => [(a, y)]
  | c :: m => if a < c.1 then (a, y) :: c :: m else c :: Memory.place a y m

/-- `MEM[a] <- y`. Writing the reset contents removes the entry, so that equal memories are equal
lists. -/
def Memory.write (m : Memory) (a : Nat) (y : Byte) : Memory :=
  if y = resetByte a then m.forget a else Memory.place a y (m.forget a)

/-- The `n` bytes `MEM[a] .. MEM[a+n-1]` (00_scope.md R15). -/
def Memory.readBytes (m : Memory) (a n : Nat) : List Byte :=
  (List.range n).map (fun k => m.read (a + k))

/-- `MEM[a+k] <- bytes[k]` for each byte (00_scope.md R15). -/
def Memory.writeBytes : Memory → Nat → List Byte → Memory
  | m, _, [] => m
  | m, a, y :: ys => Memory.writeBytes (m.write a y) (a + 1) ys

/-- The canonical form: addresses below 4096, strictly rising, and no entry equal to what an
unlisted address reads as. -/
def Memory.wf : Memory → Bool
  | [] => true
  | (a, y) :: m =>
    decide (a < memSize) && (y != resetByte a) && m.all (fun c => decide (a < c.1)) && Memory.wf m

/-- The memory with a font from 0x000 on and nothing else written (70_reset_and_hazards.md R163). With
the default font nothing is listed: it is what unlisted addresses read as. -/
def Memory.withFont (font : Vector Byte 80) : Memory := Memory.writeBytes [] 0 font.toList

/-- Under `RESET_ARBITRARY = true` the bytes at 0x050 to 0x1FF are free values after reset,
those of the `k`-th reset (10_state.md R42). -/
def Memory.drawReserved (m : Memory) (arbitrary : Bool) (k : Nat) : Memory :=
  if arbitrary then
    m.writeBytes reservedStart
      ((List.range (progStart - reservedStart)).map (fun j => Config.resetMem k (reservedStart + j)))
  else m

end Sys2Proof.Machine
end

