-- ==== Sys2Proof/Machine/State.lean ====
section
/-! DEFINITION. The Machine record (10_state.md R20) as plain data, the fatal errors it can be halted
with, how a step can stop, and the state after reset. -/

namespace Sys2Proof.Machine

/-- The kinds of `StackFault` (60_exceptions.md R136). -/
inductive StackFaultKind where
  /-- `CALL` with 16 frames. -/
  | overflow
  /-- `RET` with none. -/
  | underflow
  deriving DecidableEq, Repr

/-- The fatal errors (60_exceptions.md R136), each with the value it records. -/
inductive FatalError where
  /-- Code 1: decode failure, with the raw word. -/
  | unknownOpcode (word : Word)
  /-- Code 2: `CALL` with 16 frames, or `RET` with none. -/
  | stackFault (kind : StackFaultKind)
  /-- Code 3: an access of `len` bytes at `addr` passing 0xFFF, or a ROM too large to load. -/
  | outOfMemory (addr : Word) (len : Nat)
  /-- Code 4: the ROM file is unreadable, at startup. -/
  | ioFault
  /-- Code 5: `SKP` or `SKNP` with `V[x] > 0xF`. -/
  | invalidKey (value : Byte)
  deriving DecidableEq, Repr

/-- `STATE`, the control sequencer's state (10_state.md R34). -/
inductive Status where
  /-- The block performs steps. -/
  | running
  /-- A fatal error ended the run. -/
  | halted (e : FatalError)
  /-- The host's quit signal was observed between steps. -/
  | stopped
  deriving DecidableEq, Repr

/-- The calls the block makes on the display surface (10_state.md R36, 30_encoding.md R85). -/
inductive DisplayCall where
  /-- `clear()`. -/
  | clear
  /-- `blit(bytes, x, y)`. -/
  | blit (rows : List Byte) (x y : Byte)
  /-- `present()`. -/
  | present
  deriving DecidableEq, Repr

/-- Everything the spec gives the machine (10_state.md R20, R36, R41), and the model's own fields
`calls`, `audio`, `script` and `draws`. -/
structure State where
  /-- `MEM[0..4095]` (10_state.md R31). -/
  mem : Memory
  /-- `V[0..15]` (10_state.md R21). -/
  v : Vector Byte 16
  /-- `I`, 16 bits stored, 12 bits of value (10_state.md R26). -/
  i : Word
  /-- `PC` (10_state.md R24). -/
  pc : Word
  /-- `STACK[0..15]` (10_state.md R27). -/
  stack : Vector Word 16
  /-- `SP`, the depth 0..16 (10_state.md R27). -/
  sp : Fin 17
  /-- `DT`, the delay timer (10_state.md R28). -/
  dt : Byte
  /-- `ST`, the sound timer (10_state.md R29). -/
  st : Byte
  /-- `OP`, the current opcode (10_state.md R30). -/
  op : Word
  /-- `STATE`, the sequencer's state (10_state.md R34). -/
  status : Status
  /-- `FB`, the display surface's grid, carried beside the Machine (00_scope.md R6). -/
  fb : Grid
  /-- The host's shared `quit` flag (70_reset_and_hazards.md R174, log entry 3). -/
  quit : Bool
  /-- MODEL'S OWN: the display calls of the last step, in order (30_encoding.md R85, log entry 20). -/
  calls : List DisplayCall
  /-- MODEL'S OWN: `AUDIO_ON` after the last step and before any tick that follows it, as the step
  reports it (30_encoding.md R85, 10_state.md R38, log entry 20). -/
  audio : Bool
  /-- MODEL'S OWN: outside inputs already fixed for the coming steps, soonest first; when none is
  left, a step's inputs are free values (log entry 1). -/
  script : List Input
  /-- MODEL'S OWN: how many steps and resets have drawn since the machine was created, the index of
  the next free values (log entries 1 and 21). -/
  draws : Nat
  deriving DecidableEq, Repr

/-- Why a step stops the machine. Safe: the spec has no transition there. -/
inductive Fault where
  /-- Raised by `step` in `STATE = HALTED(e)`, where no further step is performed (10_state.md R34,
  60_exceptions.md R145); no meaning of an instruction raises it. Safe. -/
  | fatal (e : FatalError)
  deriving DecidableEq, Repr

/-- Why a step is refused. Safe: the spec has no transition there. -/
inductive Refusal where
  /-- Raised by an arm of `exec` whose instruction has no meaning yet; no arm is left that does.
  Safe. -/
  | notModelled (mnemonic : String)
  /-- Raised by `step` in `STATE = STOPPED`, where no further step is performed (10_state.md R34,
  93_implementation_defined.md U23); no meaning of an instruction raises it. Safe. -/
  | stopped
  deriving DecidableEq, Repr

/-- What a step or a meaning answers. -/
abbrev Result := Host.Outcome State Fault Refusal

/-- The state `Reset()` leaves (70_reset_and_hazards.md R163, 10_state.md R42) over a memory that holds
the font alone, for either value of `RESET_ARBITRARY`; under `true` the values drawn are those of the
`k`-th reset. The model's own fields: no call made, no audio reported, nothing scripted, and the draws
go on from `k`. -/
def State.resetFrom (fontMem : Memory) (arbitrary : Bool) (k : Nat) : State where
  mem := fontMem.drawReserved arbitrary k
  v := if arbitrary then Vector.ofFn (fun r => Config.resetV k r.val) else Vector.replicate 16 0#8
  i := if arbitrary then (Config.resetI k).setWidth 16 else 0#16
  pc := BitVec.ofNat 16 progStart
  stack := Vector.replicate 16 0#16
  sp := 0
  dt := if arbitrary then Config.resetDt k else 0#8
  st := if arbitrary then Config.resetSt k else 0#8
  op := 0#16
  status := .running
  fb := Grid.blank
  quit := false
  calls := []
  audio := false
  script := []
  draws := k

/-- The state the `k`-th reset leaves, for any values of the parameters. -/
def State.resetWith (p : Params) (k : Nat) : State :=
  State.resetFrom (Memory.withFont p.font) p.resetArbitrary k

/-- The machine right after reset, with the parameters at the values this hardware takes: the default
font needs no entry in memory. It is `State.resetWith Config.params 0`
(`State.resetWith_params`). -/
def State.reset : State := State.resetFrom [] Config.resetArbitrary 0

end Sys2Proof.Machine
end

