-- ==== Sys2Proof/Machine/Operands.lean ====
section
/-! DEFINITION. The operand forms (30_encoding.md R65, R66): registers, immediates, `V[0]` to `V[x]`,
the key snapshot and the random byte. -/

namespace Sys2Proof.Machine

/-- `VF`, register 15 (10_state.md R22). -/
def vf : Reg := 15

/-- `V[r]`. -/
def State.reg (s : State) (r : Reg) : Byte := s.v[r.val]

/-- `zext_16(nnn)` (30_encoding.md R65). -/
def addrOperand (nnn : Addr) : Word := nnn.setWidth 16

/-- `zext_16(V[x])`. -/
def byteOperand (b : Byte) : Word := b.setWidth 16

/-- `V[0] .. V[x]`, the operands of a block store (43_index_memory.md R119). -/
def State.regsUpTo (s : State) (x : Reg) : List Byte := s.v.toList.take (x.val + 1)

/-- The three decimal digits of a byte: hundreds, tens, ones (43_index_memory.md R118). -/
def bcdDigits (b : Byte) : List Byte := [b / 100#8, (b / 10#8) % 10#8, b % 10#8]

/-- `(I + V[x]) & 0xFFF` (43_index_memory.md R116). -/
def indexSum (i : Word) (b : Byte) : Word := (i + byteOperand b) &&& 0x0FFF#16

/-- The outside inputs of this step: the scripted ones, else free values (log entry 1). -/
def State.input (s : State) : Input :=
  match s.script with
  | x :: _ => x
  | [] => Config.input s.draws

/-- The keys down in a snapshot, lowest first. -/
def keysDown (keys : BitVec 16) : List Nat := (List.range 16).filter (fun k => keys.getLsbD k)

/-- `any_pressed()`: `None` when no key is down, else some key that is, the choice being free
(10_state.md R37, decision D10). -/
def anyPressed (keys : BitVec 16) (pick : Nat) : Option Nat :=
  (keysDown keys)[pick % (keysDown keys).length]?

end Sys2Proof.Machine
end

