-- ==== Sys2Proof/Machine/Ops.lean ====
section
/-! DEFINITION. The named operations over the state that the meanings share: registers, `PC`, memory,
the call stack, the keypad, the display, the timers, and raising a fatal error. -/

namespace Sys2Proof.Machine

/-! ### Registers and the program counter -/

/-- `V[r] <- b`. -/
def State.setReg (s : State) (r : Reg) (b : Byte) : State := { s with v := s.v.set r.val b }

/-- A result to `V[x]` first and a flag to `VF` second (42_load_arith.md R100, decision D6, log entry
12). -/
def State.setResultFlag (s : State) (x : Reg) (b : Byte) (c : Bool) : State :=
  (s.setReg x b).setReg vf (flagByte c)

/-- `V[k] <- bytes[k]` for each byte there is (43_index_memory.md R120). -/
def State.loadRegs (s : State) (bytes : List Byte) : State :=
  { s with v := Vector.ofFn (fun r => bytes.getD r.val s.v[r.val]) }

/-- `PC <- target`, not masked and not checked (40_flow.md R88, log entry 18). -/
def State.setPc (s : State) (target : Word) : State := { s with pc := target }

/-- `PC <- PC + 2` (30_encoding.md R79). -/
def State.advance (s : State) : State := s.setPc (s.pc + 2#16)

/-- A skip: `PC + 4` if the condition holds, else `PC + 2` (30_encoding.md R80). -/
def State.skipIf (s : State) (c : Bool) : State := s.setPc (if c then s.pc + 4#16 else s.pc + 2#16)

/-- `I <- a`. -/
def State.setIndex (s : State) (a : Word) : State := { s with i := a }

/-! ### Fatal errors (60_exceptions.md) -/

/-- The numeric code of a fatal error (60_exceptions.md R136). -/
def FatalError.code : FatalError → Nat
  | .unknownOpcode _ => 1
  | .stackFault _ => 2
  | .outOfMemory _ _ => 3
  | .ioFault => 4
  | .invalidKey _ => 5

/-- Taking a fatal error: `STATE <- HALTED(e)` and nothing else (60_exceptions.md R140, R145, log
entries 4 and 17). -/
def State.raise (s : State) (e : FatalError) : State := { s with status := .halted e }

/-- The end of an instruction that may raise: its new state, or the state it began in with the error
taken, so that no write of the faulting instruction survives (60_exceptions.md R140). -/
def State.orRaise (s : State) (r : Except FatalError State) : Result :=
  .next (match r with
    | .ok t => t
    | .error e => s.raise e)

/-! ### Memory accesses (20_memory.md R50, 00_scope.md R15) -/

/-- An access of `n` bytes at `a` is in bounds; one of no bytes always is (20_memory.md R50). -/
def inBounds (a : Word) (n : Nat) : Bool := decide (n = 0) || decide (a.toNat + n ≤ memSize)

/-- `MemRead(a, n)`. -/
def State.memRead (s : State) (a : Word) (n : Nat) : Except FatalError (List Byte) :=
  if inBounds a n then .ok (s.mem.readBytes a.toNat n) else .error (.outOfMemory a n)

/-- `MemWrite(a, n, bytes)`, `n` being the number of bytes. -/
def State.memWrite (s : State) (a : Word) (bytes : List Byte) : Except FatalError State :=
  if inBounds a bytes.length then .ok { s with mem := s.mem.writeBytes a.toNat bytes }
  else .error (.outOfMemory a bytes.length)

/-! ### The call stack (40_flow.md R89) -/

/-- `Push(w)`: `STACK[SP] <- w; SP <- SP + 1`, or `StackFault(overflow)` at depth 16. -/
def State.push (s : State) (w : Word) : Except FatalError State :=
  if h : s.sp.val < 16 then
    .ok { s with stack := s.stack.set s.sp.val w, sp := ⟨s.sp.val + 1, Nat.succ_lt_succ h⟩ }
  else .error (.stackFault .overflow)

/-- `Pop()`: `SP <- SP - 1`, answering `STACK[SP]`, or `StackFault(underflow)` at depth 0. -/
def State.pop (s : State) : Except FatalError (Word × State) :=
  if h : s.sp.val = 0 then .error (.stackFault .underflow)
  else
    have hb : s.sp.val - 1 < 16 := by omega
    .ok (s.stack[s.sp.val - 1], { s with sp := ⟨s.sp.val - 1, Nat.lt_succ_of_lt hb⟩ })

/-! ### The surfaces outside (10_state.md R36 to R39) -/

/-- `is_down(k)` on this step's snapshot; a key above 0xF is `InvalidKey(k)` (41_skip.md R98,
60_exceptions.md R141, decision D9, log entry 15). -/
def State.isDown (s : State) (k : Byte) : Except FatalError Bool :=
  if k.toNat > 0xF then .error (.invalidKey k) else .ok (s.input.keys.getLsbD k.toNat)

/-- `clear()` on the display surface. -/
def State.clearDisplay (s : State) : State :=
  { s with fb := Grid.blank, calls := s.calls ++ [.clear] }

/-- `Blit(rows, cx, cy)`, its flag to `VF`, and `Present()` (45_display.md R125). -/
def State.draw (s : State) (rows : List Byte) (cx cy : Byte) : State :=
  { s with
    fb := (s.fb.blit rows cx cy).1
    calls := s.calls ++ [.blit rows cx cy, .present]
    v := s.v.set vf.val (flagByte (s.fb.blit rows cx cy).2) }

/-- The output `AUDIO_ON = (ST != 0)` (10_state.md R38, 60_exceptions.md R153). -/
def State.audioOn (s : State) : Bool := s.st != 0#8

/-! ### The timers (46_timers.md R128, 60_exceptions.md R150) -/

/-- `arm(b)` on the delay timer. -/
def State.armDt (s : State) (b : Byte) : State := { s with dt := b }

/-- `arm(b)` on the sound timer. -/
def State.armSt (s : State) (b : Byte) : State := { s with st := b }

/-- A timer's value after `n` ticks: each takes 1 off while it is above 0, and it stays at 0
(60_exceptions.md R150). -/
def countdown (n : Nat) (t : Byte) : Byte :=
  if t = 0#8 then 0#8 else BitVec.ofNat 8 (t.toNat - n)

/-- `n` ticks of `DT`; none changes state unless RUNNING (60_exceptions.md R152). -/
def State.ticksDt (s : State) (n : Nat) : State :=
  if s.status = .running then { s with dt := countdown n s.dt } else s

/-- `n` ticks of `ST`; none changes state unless RUNNING (60_exceptions.md R152). -/
def State.ticksSt (s : State) (n : Nat) : State :=
  if s.status = .running then { s with st := countdown n s.st } else s

/-- The inputs of this step are used up. -/
def State.nextInput (s : State) : State :=
  { s with script := s.script.tail, draws := s.draws + 1 }

end Sys2Proof.Machine
end

