-- ==== Sys2Proof/Machine/HostMoves.lean ====
section
/-! DEFINITION. The host's moves between two steps (70_reset_and_hazards.md R176), as functions on
the state; the step itself is in Machine/Step.lean. -/

namespace Sys2Proof.Machine

/-- `RESET`: the state of `Reset()` (70_reset_and_hazards.md R163), from any state (30_encoding.md
R81). It is a draw of its own: the model's counter moves on past it, so that no two resets and no two
steps share a free value, and the script goes on (log entry 21). -/
def State.hostReset (p : Params) (s : State) : State :=
  { State.resetWith p (s.draws + 1) with script := s.script }

/-- The bytes a ROM may have: 4096 - 0x200 (70_reset_and_hazards.md R166). -/
def romCapacity : Nat := memSize - progStart

/-- The load itself: copy the image to 0x200 on; unreadable is `IoFault`, too long is
`OutOfMemory(0x200, len)` with no byte written (70_reset_and_hazards.md R166). -/
def State.loadRom (s : State) : Option (List Byte) → State
  | none => s.raise .ioFault
  | some rom =>
    if rom.length > romCapacity then s.raise (.outOfMemory (BitVec.ofNat 16 progStart) rom.length)
    else { s with mem := s.mem.writeBytes progStart rom }

/-- `LOAD(rom)`: the load, in a running machine. In HALTED and STOPPED it has no effect, since only a
reset leaves them (10_state.md R34, log entry 21). -/
def State.hostLoad (s : State) (rom : Option (List Byte)) : State :=
  if s.status = .running then s.loadRom rom else s

/-- `QUIT`: the shared quit flag is set; the block observes it before its next step
(70_reset_and_hazards.md R174). -/
def State.hostQuit (s : State) : State := { s with quit := true }

/-- The moves of 70_reset_and_hazards.md R176 other than the step. -/
inductive HostMove where
  /-- `RESET`. -/
  | reset
  /-- `LOAD(rom)`: the ROM's bytes, or `none` for unreadable. -/
  | load (rom : Option (List Byte))
  /-- `QUIT`. -/
  | quit
  /-- `TICK_DT` (10_state.md R40). -/
  | tickDt
  /-- `TICK_ST` (10_state.md R40). -/
  | tickSt
  deriving DecidableEq, Repr

/-- The state after a host move, for any values of the parameters. -/
def State.hostWith (p : Params) (s : State) : HostMove → State
  | .reset => s.hostReset p
  | .load rom => s.hostLoad rom
  | .quit => s.hostQuit
  | .tickDt => s.ticksDt 1
  | .tickSt => s.ticksSt 1

/-- The state after a host move, with the parameters at the values this hardware takes. -/
def State.host (s : State) (m : HostMove) : State := s.hostWith Config.params m

end Sys2Proof.Machine
end

