-- ==== Sys2Proof/Machine/Display.lean ====
section
/-! DEFINITION. The display family (45_display.md). -/

namespace Sys2Proof.Machine

/-- `CLS`: clear the display; no redraw call (45_display.md R124, decision D30). -/
def execCls (s : State) : Result := .next s.clearDisplay.advance

/-- `DRW Vx, Vy, nibble`: XOR `n` sprite rows from memory at `I` onto the grid, VF is the collision
(45_display.md R125), by the rule's pseudocode and its Flags line also where its corner case on a
second draw differs (log entry 29). -/
def execDrw (x y : Reg) (n : Nibble) (s : State) : Result :=
  s.orRaise ((s.memRead s.i n.toNat).map fun rows => (s.draw rows (s.reg x) (s.reg y)).advance)

end Sys2Proof.Machine
end

