-- ==== Sys2Proof/Machine/Flow.lean ====
section
/-! DEFINITION. The flow family (40_flow.md): JP, CALL, RET, JP V0. -/

namespace Sys2Proof.Machine

/-- `JP addr`: `PC <- zext_16(nnn)` (40_flow.md R90). -/
def execJp (nnn : Addr) (s : State) : Result := .next (s.setPc (addrOperand nnn))

/-- `CALL addr`: push the address of this instruction, then `PC <- zext_16(nnn)` (40_flow.md R91). -/
def execCall (nnn : Addr) (s : State) : Result :=
  s.orRaise ((s.push s.pc).map fun t => t.setPc (addrOperand nnn))

/-- `RET`: `PC <- Pop() + 2` (40_flow.md R92, 90_conflicts.md C3). -/
def execRet (s : State) : Result :=
  s.orRaise (s.pop.map fun p => p.2.setPc (p.1 + 2#16))

/-- `JP V0, addr`: `PC <- zext_16(nnn) + zext_16(V[0])`, not masked (40_flow.md R93, decisions D20,
D24). -/
def execJpV0 (nnn : Addr) (s : State) : Result :=
  .next (s.setPc (addrOperand nnn + byteOperand (s.reg 0)))

end Sys2Proof.Machine
end

