-- ==== Sys2Proof/Machine/IndexMemory.lean ====
section
/-! DEFINITION. The index and memory family (43_index_memory.md). `I` is never changed by an access. -/

namespace Sys2Proof.Machine

/-- `LD I, addr` (43_index_memory.md R115). -/
def execLdI (nnn : Addr) (s : State) : Result := .next (s.setIndex (addrOperand nnn)).advance

/-- `ADD I, Vx`: 12-bit sum, VF is the overflow past 0xFFF, written last (43_index_memory.md R116). -/
def execAddI (x : Reg) (s : State) : Result :=
  .next ((s.setIndex (indexSum s.i (s.reg x))).setReg vf
    (flagByte (indexOverflow s.i (s.reg x)))).advance

/-- `LD F, Vx`: `I` to the glyph of digit `V[x]` (43_index_memory.md R117). -/
def execLdF (x : Reg) (s : State) : Result := .next (s.setIndex (glyphAddr (s.reg x))).advance

/-- `LD B, Vx`: the three decimal digits of `V[x]` to memory at `I` (43_index_memory.md R118). -/
def execLdB (x : Reg) (s : State) : Result :=
  s.orRaise ((s.memWrite s.i (bcdDigits (s.reg x))).map State.advance)

/-- `LD [I], Vx`: `V[0]` to `V[x]` to memory at `I` (43_index_memory.md R119). -/
def execLdMemVx (x : Reg) (s : State) : Result :=
  s.orRaise ((s.memWrite s.i (s.regsUpTo x)).map State.advance)

/-- `LD Vx, [I]`: `V[0]` to `V[x]` from memory at `I` (43_index_memory.md R120). -/
def execLdVxMem (x : Reg) (s : State) : Result :=
  s.orRaise ((s.memRead s.i (x.val + 1)).map fun bytes => (s.loadRegs bytes).advance)

end Sys2Proof.Machine
end

