-- ==== Sys2Proof/Machine/Input.lean ====
section
/-! DEFINITION. The input family (47_input.md). -/

namespace Sys2Proof.Machine

/-- `LD Vx, K`: with no key down `PC` is held and the step writes nothing else; with some key down,
one of them to `V[x]`, which one being a free value (47_input.md R133, R134). -/
def execLdVxK (x : Reg) (s : State) : Result :=
  .next (match anyPressed s.input.keys s.input.pick with
    | none => s
    | some k => (s.setReg x (BitVec.ofNat 8 k)).advance)

end Sys2Proof.Machine
end

