-- ==== Sys2Proof/Machine/LoadArith.lean ====
section
/-! DEFINITION. The load and arithmetic family (42_load_arith.md). Sources are read before anything is
written (R100). -/

namespace Sys2Proof.Machine

/-- `LD Vx, byte` (42_load_arith.md R101). -/
def execLdByte (x : Reg) (kk : Byte) (s : State) : Result := .next (s.setReg x kk).advance

/-- `ADD Vx, byte`: no flag (42_load_arith.md R102). -/
def execAddByte (x : Reg) (kk : Byte) (s : State) : Result :=
  .next (s.setReg x (s.reg x + kk)).advance

/-- `LD Vx, Vy` (42_load_arith.md R103). -/
def execLdReg (x y : Reg) (s : State) : Result := .next (s.setReg x (s.reg y)).advance

/-- `OR Vx, Vy`: VF is not reset (42_load_arith.md R104, decision D7, log entry 13). -/
def execOrReg (x y : Reg) (s : State) : Result :=
  .next (s.setReg x (s.reg x ||| s.reg y)).advance

/-- `AND Vx, Vy` (42_load_arith.md R105, decision D7, log entry 13). -/
def execAndReg (x y : Reg) (s : State) : Result :=
  .next (s.setReg x (s.reg x &&& s.reg y)).advance

/-- `XOR Vx, Vy` (42_load_arith.md R106, decision D7, log entry 13). -/
def execXorReg (x y : Reg) (s : State) : Result :=
  .next (s.setReg x (s.reg x ^^^ s.reg y)).advance

/-- `ADD Vx, Vy`: VF is the carry (42_load_arith.md R107). -/
def execAddReg (x y : Reg) (s : State) : Result :=
  .next (s.setResultFlag x (s.reg x + s.reg y) (carryOut (s.reg x) (s.reg y))).advance

/-- `SUB Vx, Vy`: `Vx - Vy`, VF is `Vx > Vy` (42_load_arith.md R108). -/
def execSubReg (x y : Reg) (s : State) : Result :=
  .next (s.setResultFlag x (s.reg x - s.reg y) (noBorrow (s.reg x) (s.reg y))).advance

/-- `SUBN Vx, Vy`: `Vy - Vx`, VF is `Vy > Vx` (42_load_arith.md R109). -/
def execSubnReg (x y : Reg) (s : State) : Result :=
  .next (s.setResultFlag x (s.reg y - s.reg x) (noBorrow (s.reg y) (s.reg x))).advance

/-- `SHR Vx`: right by one, VF is the bit shifted out; the field `y` is ignored (42_load_arith.md
R110). -/
def execShrReg (x _y : Reg) (s : State) : Result :=
  .next (s.setResultFlag x (s.reg x >>> 1) (shiftedOutLow (s.reg x))).advance

/-- `SHL Vx`: left by one, VF is the bit shifted out; the field `y` is ignored (42_load_arith.md
R111). -/
def execShlReg (x _y : Reg) (s : State) : Result :=
  .next (s.setResultFlag x (s.reg x <<< 1) (shiftedOutHigh (s.reg x))).advance

end Sys2Proof.Machine
end

