-- ==== Sys2Proof/Machine/Random.lean ====
section
/-! DEFINITION. The random family (44_random.md). -/

namespace Sys2Proof.Machine

/-- `RND Vx, byte`: the random byte, a free value, masked by `kk` (44_random.md R122, R123). -/
def execRnd (x : Reg) (kk : Byte) (s : State) : Result :=
  .next (s.setReg x (s.input.rand &&& kk)).advance

end Sys2Proof.Machine
end

