-- ==== Sys2Proof/Machine/Skip.lean ====
section
/-! DEFINITION. The skip family (41_skip.md): SE, SNE, SKP, SKNP. -/

namespace Sys2Proof.Machine

/-- `SE Vx, byte` (41_skip.md R94). -/
def execSeByte (x : Reg) (kk : Byte) (s : State) : Result := .next (s.skipIf (s.reg x == kk))

/-- `SNE Vx, byte` (41_skip.md R95). -/
def execSneByte (x : Reg) (kk : Byte) (s : State) : Result := .next (s.skipIf (s.reg x != kk))

/-- `SE Vx, Vy` (41_skip.md R96). -/
def execSeReg (x y : Reg) (s : State) : Result := .next (s.skipIf (s.reg x == s.reg y))

/-- `SNE Vx, Vy` (41_skip.md R97). -/
def execSneReg (x y : Reg) (s : State) : Result := .next (s.skipIf (s.reg x != s.reg y))

/-- `SKP Vx`: skip if key `V[x]` is down (41_skip.md R98). -/
def execSkp (x : Reg) (s : State) : Result :=
  s.orRaise ((s.isDown (s.reg x)).map fun down => s.skipIf down)

/-- `SKNP Vx`: skip if key `V[x]` is not down (41_skip.md R99). -/
def execSknp (x : Reg) (s : State) : Result :=
  s.orRaise ((s.isDown (s.reg x)).map fun down => s.skipIf (!down))

end Sys2Proof.Machine
end

