-- ==== Sys2Proof/Machine/Timer.lean ====
section
/-! DEFINITION. The timer family (46_timers.md). -/

namespace Sys2Proof.Machine

/-- `LD Vx, DT` (46_timers.md R130). -/
def execLdVxDt (x : Reg) (s : State) : Result := .next (s.setReg x s.dt).advance

/-- `LD DT, Vx` (46_timers.md R131). -/
def execLdDtVx (x : Reg) (s : State) : Result := .next (s.armDt (s.reg x)).advance

/-- `LD ST, Vx` (46_timers.md R132). -/
def execLdStVx (x : Reg) (s : State) : Result := .next (s.armSt (s.reg x)).advance

end Sys2Proof.Machine
end

