-- ==== Sys2Proof/Machine/Unimplemented.lean ====
section
/-! DEFINITION. The unimplemented family (48_unimplemented.md). -/

namespace Sys2Proof.Machine

/-- `SYS addr`: a documented no-op (48_unimplemented.md R135). -/
def execSys (_nnn : Addr) (s : State) : Result := .next s.advance

end Sys2Proof.Machine
end

