-- ==== Sys2Proof/Machine/Sequencer.lean ====
section
/-! DEFINITION. The control sequencer (30_encoding.md R81 to R86): fetch, decode, execute, and what
may happen between two steps. -/

namespace Sys2Proof.Machine

/-- The fetch: `MEM[PC] ++ MEM[PC+1]`, or `OutOfMemory(PC, 2)` above 0xFFE (30_encoding.md R84,
20_memory.md R46). -/
def State.fetch (s : State) : Except FatalError Word :=
  if s.pc.toNat > 0xFFE then .error (.outOfMemory s.pc 2)
  else .ok (bigEndian (s.mem.read s.pc.toNat) (s.mem.read (s.pc.toNat + 1)))

/-- `OP <- W` (30_encoding.md R84). -/
def State.setOp (s : State) (w : Word) : State := { s with op := w }

/-- One instruction: fetch, then decode, then execute, the first check that fails being the error
reported (30_encoding.md R84, 60_exceptions.md R144). -/
def State.runInstruction (p : Params) (s : State) : Result :=
  match s.fetch with
  | .error e => .next (s.raise e)
  | .ok w =>
    match decodeWord p.strictDecode w with
    | .ok i => exec i (s.setOp w)
    | .error _ => .next ((s.setOp w).raise (.unknownOpcode w))

/-- A step begins with no display call made (30_encoding.md R85, log entry 20). -/
def State.beginStep (s : State) : State := { s with calls := [] }

/-- The step reports `AUDIO_ON`, before any tick (30_encoding.md R85, log entry 20). -/
def State.reportAudio (s : State) : State := { s with audio := s.audioOn }

/-- Between this step and the next: the ticks of both timers fall, and the step's inputs are used up
(30_encoding.md R86, 60_exceptions.md R151, log entry 2). -/
def State.betweenSteps (s : State) : State :=
  ((s.ticksDt s.input.dtTicks).ticksSt s.input.stTicks).nextInput

/-- The host's quit flag is observed before a step: `STATE <- STOPPED`, all else kept
(70_reset_and_hazards.md R174, log entry 3). -/
def State.stop (s : State) : State := { s with status := .stopped }

/-- When the instruction answers a state: the step's report, then what falls before the next step. -/
def afterInstruction : Result → Result
  | .next t => .next t.reportAudio.betweenSteps
  | .fault f => .fault f
  | .refused r => .refused r

/-- The sequencer's transition (30_encoding.md R81): a step only while RUNNING, the quit flag first,
no transition in HALTED or STOPPED (10_state.md R34, log entries 3 and 4). -/
def State.sequence (p : Params) (s : State) : Result :=
  match s.status with
  | .halted e => .fault (.fatal e)
  | .stopped => .refused .stopped
  | .running => if s.quit then .next s.stop else afterInstruction (s.beginStep.runInstruction p)

/-- Lay a word out in memory at `PC`, as the hardware stores it (20_memory.md R46). Above 0xFFE
there is no place for it and nothing changes. -/
def State.placeWord (s : State) (w : Word) : State :=
  if s.pc.toNat > 0xFFE then s else { s with mem := s.mem.writeBytes s.pc.toNat (wordBytes w) }

end Sys2Proof.Machine
end

