-- ==== Sys2Proof/Machine/Step.lean ====
section
/-! DEFINITION. One step of the machine (30_encoding.md R84), and the placing of an instruction where
it is fetched next. -/

namespace Sys2Proof.Machine

/-- One step, for any values of the parameters: see `State.sequence`. -/
def stepWith (p : Params) (s : State) : Host.Outcome State Fault Refusal := s.sequence p

/-- One step, with the parameters at the values this hardware takes. -/
def step (s : State) : Host.Outcome State Fault Refusal := stepWith Config.params s

/-- The state with the instruction of `nbits` bits `w` at `PC`, where `step` fetches next. Only
memory changes. -/
def State.withFetchWord (s : State) (nbits w : Nat) : State :=
  s.placeWord (BitVec.ofNat 16 (w % 2 ^ nbits))

end Sys2Proof.Machine
end

