-- ==== Sys2Proof/Safety.lean ====
section
/-! DEFINITION. The terms claims are stated in: what a run must not do, what each instruction may
change, what it raises, and the invariant every step keeps. Nothing here is part of the machine. -/

namespace Sys2Proof.Machine

/-! ### Safe runs -/

/-- No fatal error has ended the run (60_exceptions.md R136). -/
def State.Safe (s : State) : Prop := ∀ e, s.status ≠ .halted e

/-- The fairness premise a termination claim may take, and the only assumption on timing (70_reset_
and_hazards.md R180): from every point of the draws on, each timer ticks again. Nothing in the model
assumes it. -/
def FairTicks : Prop :=
  ∀ k, (∃ j, k ≤ j ∧ 0 < Config.dtTicks j) ∧ (∃ j, k ≤ j ∧ 0 < Config.stTicks j)

/-! ### What an instruction may change -/

/-- A list of what may differ between two states; `pc` may always differ, and `op`, `quit`,
`audio`, `script` and `draws` never. -/
structure Footprint where
  /-- The registers written. -/
  regs : Reg → Bool := fun _ => false
  /-- `I`. -/
  index : Bool := false
  /-- The entries of `STACK` written. -/
  slots : Fin 16 → Bool := fun _ => false
  /-- `SP`. -/
  depth : Bool := false
  /-- `DT`. -/
  dt : Bool := false
  /-- `ST`. -/
  st : Bool := false
  /-- `FB` and the display calls. -/
  display : Bool := false
  /-- `STATE`. -/
  status : Bool := false
  /-- The addresses of `MEM` written. -/
  bytes : Nat → Bool := fun _ => false

/-- `t` differs from `s` in the footprint and in `pc` only. Memory is compared byte by byte. -/
structure Frame (f : Footprint) (s t : State) : Prop where
  regs : ∀ r, f.regs r = false → t.reg r = s.reg r
  index : f.index = false → t.i = s.i
  slots : ∀ j : Fin 16, f.slots j = false → t.stack[j.val] = s.stack[j.val]
  depth : f.depth = false → t.sp = s.sp
  dt : f.dt = false → t.dt = s.dt
  st : f.st = false → t.st = s.st
  fb : f.display = false → t.fb = s.fb
  calls : f.display = false → t.calls = s.calls
  status : f.status = false → t.status = s.status
  bytes : ∀ a, f.bytes a = false → t.mem.read a = s.mem.read a
  op : t.op = s.op
  quit : t.quit = s.quit
  audio : t.audio = s.audio
  script : t.script = s.script
  draws : t.draws = s.draws

/-- One register. -/
def only (x r : Reg) : Bool := r == x

/-- One register and `VF` as a flag. -/
def withFlag (x r : Reg) : Bool := r == x || r == vf

/-- The `n` addresses from `a` on. -/
def span (a n b : Nat) : Bool := decide (a ≤ b) && decide (b < a + n)

/-- What an instruction writes when it does not raise (10_state.md R23 for the registers, R22 for
`VF`, R26 to R29 for `I`, the stack and the timers, 20_memory.md R49 for memory, 10_state.md R36 for
the display). -/
def footprint (s : State) : Instr → Footprint
  | .cls => { display := true }
  | .ret => { depth := true }
  | .sys _ => {}
  | .jp _ => {}
  | .call _ => { slots := fun j => j.val == s.sp.val, depth := true }
  | .seByte _ _ => {}
  | .sneByte _ _ => {}
  | .seReg _ _ => {}
  | .ldByte x _ => { regs := only x }
  | .addByte x _ => { regs := only x }
  | .ldReg x _ => { regs := only x }
  | .orReg x _ => { regs := only x }
  | .andReg x _ => { regs := only x }
  | .xorReg x _ => { regs := only x }
  | .addReg x _ => { regs := withFlag x }
  | .subReg x _ => { regs := withFlag x }
  | .shrReg x _ => { regs := withFlag x }
  | .subnReg x _ => { regs := withFlag x }
  | .shlReg x _ => { regs := withFlag x }
  | .sneReg _ _ => {}
  | .ldI _ => { index := true }
  | .jpV0 _ => {}
  | .rnd x _ => { regs := only x }
  | .drw _ _ _ => { regs := only vf, display := true }
  | .skp _ => {}
  | .sknp _ => {}
  | .ldVxDt x => { regs := only x }
  | .ldVxK x => { regs := only x }
  | .ldDtVx _ => { dt := true }
  | .ldStVx _ => { st := true }
  | .addI _ => { regs := only vf, index := true }
  | .ldF _ => { index := true }
  | .ldB _ => { bytes := span s.i.toNat 3 }
  | .ldMemVx x => { bytes := span s.i.toNat (x.val + 1) }
  | .ldVxMem x => { regs := fun r => decide (r ≤ x) }

/-! ### What an instruction raises -/

/-- The fatal error of an instruction's own check, if it raises one in this state (60_exceptions.md
R138, R139, R141, R143). -/
def raises (s : State) : Instr → Option FatalError
  | .call _ => if s.sp.val = 16 then some (.stackFault .overflow) else none
  | .ret => if s.sp.val = 0 then some (.stackFault .underflow) else none
  | .drw _ _ n =>
    if 0 < n.toNat ∧ 0xFFF < s.i.toNat + n.toNat - 1 then some (.outOfMemory s.i n.toNat) else none
  | .ldB _ => if 0xFFF < s.i.toNat + 2 then some (.outOfMemory s.i 3) else none
  | .ldMemVx x | .ldVxMem x =>
    if 0xFFF < s.i.toNat + x.val then some (.outOfMemory s.i (x.val + 1)) else none
  | .skp x | .sknp x => if 0xF < (s.reg x).toNat then some (.invalidKey (s.reg x)) else none
  | .cls | .sys _ | .jp _ | .seByte _ _ | .sneByte _ _ | .seReg _ _ | .ldByte _ _ | .addByte _ _
  | .ldReg _ _ | .orReg _ _ | .andReg _ _ | .xorReg _ _ | .addReg _ _ | .subReg _ _ | .shrReg _ _
  | .subnReg _ _ | .shlReg _ _ | .sneReg _ _ | .ldI _ | .jpV0 _ | .rnd _ _ | .ldVxDt _ | .ldVxK _
  | .ldDtVx _ | .ldStVx _ | .addI _ | .ldF _ => none

/-! ### The invariant -/

/-- What every step keeps: memory in canonical form, `I` at most 0xFFF (10_state.md R26), `PC` at
most 0x10FE (R25), and every live stack entry the address of a fetched `CALL` (40_flow.md R92). -/
structure State.Inv (s : State) : Prop where
  mem : s.mem.wf = true
  index : s.i.toNat ≤ 0xFFF
  pc : s.pc.toNat ≤ 0x10FE
  stack : ∀ j : Fin 16, j.val < s.sp.val → s.stack[j.val].toNat ≤ 0xFFE

/-! ### Sprites -/

/-- Some set pixel of the sprite `rows`, drawn at `(cx, cy)`, lands on this grid cell, every pixel
wrapping modulo 64 and 32 (45_display.md R126). -/
def SpriteCovers (rows : List Byte) (cx cy : Byte) (row : Fin 32) (col : Fin 64) : Prop :=
  ∃ r c, ∃ h : r < rows.length, c < 8 ∧ rows[r].getLsbD (7 - c) = true ∧
    row.val = (cy.toNat + r) % 32 ∧ col.val = (cx.toNat + c) % 64

/-! ### Words -/

/-- The word that is fetched at `PC` (30_encoding.md R84). -/
def State.wordAtPc (s : State) : Word :=
  bigEndian (s.mem.read s.pc.toNat) (s.mem.read (s.pc.toNat + 1))

/-- The decoder, as this hardware has it, reads this instruction from this word. -/
def Decodes (w : Nat) (i : Instr) : Prop :=
  decodeWord Config.strictDecode (BitVec.ofNat 16 w) = .ok i

end Sys2Proof.Machine
end

