-- ==== Sys2Proof/Certificates/Slice0/Obligations.lean ====
section
/-! DEFINITION. The statements for the provers. Each docstring names the rule of spec/ it formalises;
where a clause is the spec's own decision (92_eei_decisions.md) it says so. -/

open Sys2Proof Sys2Proof.Machine

/-! ### Encoding -/

/-- A few words, written out from the opcode map (30_encoding.md R67; 95_test_vectors.md E2 to E14),
and the instructions they stand for, one or more per family. -/
def Obligations.SpecWordsDecode : Prop :=
  Decodes 0x00E0 .cls ∧ Decodes 0x00EE .ret ∧ Decodes 0x00E1 (.sys 0x0E1#12) ∧
  Decodes 0x12F0 (.jp 0x2F0#12) ∧ Decodes 0x3210 (.seByte 2 0x10#8) ∧
  Decodes 0x6A42 (.ldByte 10 0x42#8) ∧ Decodes 0x8124 (.addReg 1 2) ∧
  Decodes 0x8127 (.subnReg 1 2) ∧ Decodes 0xA2F0 (.ldI 0x2F0#12) ∧
  Decodes 0xC30F (.rnd 3 0x0F#8) ∧ Decodes 0xD015 (.drw 0 1 5#4) ∧ Decodes 0xEFA1 (.sknp 15) ∧
  Decodes 0xF00A (.ldVxK 0) ∧ Decodes 0xF015 (.ldDtVx 0) ∧ Decodes 0xF355 (.ldMemVx 3)

/-- The opcode map of 30_encoding.md R67, every pattern at every value of its fields, with
`STRICT_DECODE = false`: the low nibble of `5xyN` and `9xyN` and the `x` of `0xE0` and `0xEE` are
ignored. -/
def Obligations.OpcodeMapDecodes : Prop :=
  ∀ (x y : Reg) (n : Nibble) (kk : Byte) (nnn : Addr),
    Decodes (0x00E0 + x.val * 0x100) .cls ∧
    Decodes (0x00EE + x.val * 0x100) .ret ∧
    (nnn.toNat % 0x100 ≠ 0xE0 → nnn.toNat % 0x100 ≠ 0xEE → Decodes nnn.toNat (.sys nnn)) ∧
    Decodes (0x1000 + nnn.toNat) (.jp nnn) ∧
    Decodes (0x2000 + nnn.toNat) (.call nnn) ∧
    Decodes (0x3000 + x.val * 0x100 + kk.toNat) (.seByte x kk) ∧
    Decodes (0x4000 + x.val * 0x100 + kk.toNat) (.sneByte x kk) ∧
    Decodes (0x5000 + x.val * 0x100 + y.val * 0x10 + n.toNat) (.seReg x y) ∧
    Decodes (0x6000 + x.val * 0x100 + kk.toNat) (.ldByte x kk) ∧
    Decodes (0x7000 + x.val * 0x100 + kk.toNat) (.addByte x kk) ∧
    Decodes (0x8000 + x.val * 0x100 + y.val * 0x10) (.ldReg x y) ∧
    Decodes (0x8001 + x.val * 0x100 + y.val * 0x10) (.orReg x y) ∧
    Decodes (0x8002 + x.val * 0x100 + y.val * 0x10) (.andReg x y) ∧
    Decodes (0x8003 + x.val * 0x100 + y.val * 0x10) (.xorReg x y) ∧
    Decodes (0x8004 + x.val * 0x100 + y.val * 0x10) (.addReg x y) ∧
    Decodes (0x8005 + x.val * 0x100 + y.val * 0x10) (.subReg x y) ∧
    Decodes (0x8006 + x.val * 0x100 + y.val * 0x10) (.shrReg x y) ∧
    Decodes (0x8007 + x.val * 0x100 + y.val * 0x10) (.subnReg x y) ∧
    Decodes (0x800E + x.val * 0x100 + y.val * 0x10) (.shlReg x y) ∧
    Decodes (0x9000 + x.val * 0x100 + y.val * 0x10 + n.toNat) (.sneReg x y) ∧
    Decodes (0xA000 + nnn.toNat) (.ldI nnn) ∧
    Decodes (0xB000 + nnn.toNat) (.jpV0 nnn) ∧
    Decodes (0xC000 + x.val * 0x100 + kk.toNat) (.rnd x kk) ∧
    Decodes (0xD000 + x.val * 0x100 + y.val * 0x10 + n.toNat) (.drw x y n) ∧
    Decodes (0xE09E + x.val * 0x100) (.skp x) ∧
    Decodes (0xE0A1 + x.val * 0x100) (.sknp x) ∧
    Decodes (0xF007 + x.val * 0x100) (.ldVxDt x) ∧
    Decodes (0xF00A + x.val * 0x100) (.ldVxK x) ∧
    Decodes (0xF015 + x.val * 0x100) (.ldDtVx x) ∧
    Decodes (0xF018 + x.val * 0x100) (.ldStVx x) ∧
    Decodes (0xF01E + x.val * 0x100) (.addI x) ∧
    Decodes (0xF029 + x.val * 0x100) (.ldF x) ∧
    Decodes (0xF033 + x.val * 0x100) (.ldB x) ∧
    Decodes (0xF055 + x.val * 0x100) (.ldMemVx x) ∧
    Decodes (0xF065 + x.val * 0x100) (.ldVxMem x)

/-- Decoding the word of a well-formed instruction gives the instruction back, for either value of
`STRICT_DECODE`: no bit of an encoding is dropped (30_encoding.md, sections 2 and 3). -/
def Obligations.DecodeOfEncode : Prop :=
  ∀ (strict : Bool) (i : Instr), i.wf strict = true → decodeWord strict (encode i) = .ok i

/-- With `STRICT_DECODE = true` each word has one meaning: encoding what a word decodes to gives the
word back (30_encoding.md R70, the strict patterns). -/
def Obligations.EncodeOfStrictDecode : Prop :=
  ∀ (w : Word) (i : Instr), decodeWord true w = .ok i → encode i = w

/-- What a word decodes to is well formed, and the word lies in that instruction's row of
spec/opcode_table.json (30_encoding.md R67, R74), for either value of `STRICT_DECODE`. -/
def Obligations.DecodedWordLiesInItsTableRow : Prop :=
  ∀ (strict : Bool) (w : Word) (i : Instr), decodeWord strict w = .ok i →
    i.wf strict = true ∧ w &&& (tableRow strict i).2 = (tableRow strict i).1

/-- The words that raise `UnknownOpcode(W)` are exactly those of 30_encoding.md R71, for either value
of `STRICT_DECODE`; every other word is one of the 35 instructions. -/
def Obligations.IllegalWordsExactly : Prop :=
  ∀ (strict : Bool) (w : Word),
    let cls := w.toNat / 0x1000
    let kk := w.toNat % 0x100
    let n := w.toNat % 0x10
    let illegal : Prop :=
      (cls = 0x8 ∧ (n = 0x8 ∨ n = 0x9 ∨ n = 0xA ∨ n = 0xB ∨ n = 0xC ∨ n = 0xD ∨ n = 0xF)) ∨
      (cls = 0xE ∧ kk ≠ 0x9E ∧ kk ≠ 0xA1) ∨
      (cls = 0xF ∧ kk ≠ 0x07 ∧ kk ≠ 0x0A ∧ kk ≠ 0x15 ∧ kk ≠ 0x18 ∧ kk ≠ 0x1E ∧ kk ≠ 0x29 ∧
        kk ≠ 0x33 ∧ kk ≠ 0x55 ∧ kk ≠ 0x65) ∨
      (strict = true ∧ (cls = 0x5 ∨ cls = 0x9) ∧ n ≠ 0)
    (decodeWord strict w = .error (.unknownOpcode w) ↔ illegal) ∧
      (¬illegal → ∃ i, decodeWord strict w = .ok i)

/-! ### Reset -/

/-- The state after reset (70_reset_and_hazards.md R163, 10_state.md R42), and that the host's move
RESET leaves it from every state (R160, R176, by the spec's decision D37; log entry 21), but for the
model's own inputs. All values but the font are the spec's own decisions D15 (log entry 7) and the
font's bytes its decision D16 (log entry 6); the quit flag is the model's (log entry 3). -/
def Obligations.ResetValues : Prop :=
  State.reset.pc = 0x200#16 ∧ State.reset.i = 0#16 ∧ State.reset.sp.val = 0 ∧
  State.reset.dt = 0#8 ∧ State.reset.st = 0#8 ∧ State.reset.op = 0#16 ∧
  State.reset.status = .running ∧ State.reset.quit = false ∧ State.reset.audioOn = false ∧
  (∀ r : Reg, State.reset.reg r = 0#8) ∧
  (∀ j : Fin 16, State.reset.stack[j.val] = 0#16) ∧
  (∀ row col, State.reset.fb.pixel row col = false) ∧
  (∀ a : Nat, State.reset.mem.read a = if a < 80 then Config.font.getD a 0#8 else 0#8) ∧
  (∀ s : State, s.host .reset =
    { State.reset with script := s.script, draws := s.draws + 1 })

/-- The invariant of `StepKeepsInvariant` holds after reset, and for any values of the parameters. -/
def Obligations.ResetSatisfiesInvariant : Prop :=
  State.reset.Inv ∧ ∀ (p : Params) (k : Nat), (State.resetWith p k).Inv

/-! ### The sequencer -/

/-- When the two bytes at `PC` decode to an instruction, a step of a running machine with no quit
pending is that instruction's meaning, run on the state with the fetched word in `OP` and no display
call made yet, then the step's report, and then what falls between two steps (30_encoding.md R84,
third line). What the step reports is the instruction's display calls and `AUDIO_ON` after it and
before any tick (R85, by the spec's decision D1; log entry 20). -/
def Obligations.StepRunsDecodedInstruction : Prop :=
  ∀ (s : State) (i : Instr), s.status = .running → s.quit = false → s.pc.toNat ≤ 0xFFE →
    decodeBytes Config.strictDecode
      [s.mem.read s.pc.toNat, s.mem.read (s.pc.toNat + 1)] = .ok (i, []) →
    ∃ t, exec i { s with calls := [], op := s.wordAtPc } = .next t ∧
      step s = .next t.reportAudio.betweenSteps ∧
      t.reportAudio.betweenSteps.calls = t.calls ∧
      t.reportAudio.betweenSteps.audio = t.audioOn

/-- The word fetched is big-endian: `MEM[PC]` is its bits 15:8 (20_memory.md R46). -/
def Obligations.FetchIsBigEndian : Prop :=
  ∀ s : State, s.pc.toNat ≤ 0xFFE →
    ∃ w, s.fetch = .ok w ∧
      w.toNat = (s.mem.read s.pc.toNat).toNat * 0x100 + (s.mem.read (s.pc.toNat + 1)).toNat

/-- A fetch above 0xFFE halts with `OutOfMemory(PC, 2)` and writes nothing else, `OP` included
(60_exceptions.md R139, R140, by the spec's decisions D2 and D4; log entries 4 and 18). -/
def Obligations.FetchOutsideMemoryHalts : Prop :=
  ∀ s : State, s.status = .running → s.quit = false → 0xFFE < s.pc.toNat →
    step s = .next { s with
      status := .halted (.outOfMemory s.pc 2), calls := [], audio := s.audioOn,
      script := s.script.tail, draws := s.draws + 1 }

/-- A word that does not decode halts with `UnknownOpcode(W)`, and only `OP` is written
(60_exceptions.md R137, R140, by the spec's decision D4; log entry 4). -/
def Obligations.UnknownOpcodeHalts : Prop :=
  ∀ (s : State) (e : DecodeError), s.status = .running → s.quit = false → s.pc.toNat ≤ 0xFFE →
    decodeWord Config.strictDecode s.wordAtPc = .error e →
    step s = .next { s with
      status := .halted (.unknownOpcode s.wordAtPc), op := s.wordAtPc, calls := [],
      audio := s.audioOn, script := s.script.tail, draws := s.draws + 1 }

/-- HALTED and STOPPED admit no step and no tick; of the step and the host's moves only a reset leaves
them (10_state.md R34, 30_encoding.md R81, by the spec's decisions D4 and D18; log entry 4), a load
having no effect there (log entry 21). That HALTED is reported as a fault and STOPPED as a
refusal is the model's form of it (log entry 4). -/
def Obligations.EndedMachineTakesNoStep : Prop :=
  ∀ s : State,
    (∀ e, s.status = .halted e → step s = .fault (.fatal e)) ∧
    (s.status = .stopped → step s = .refused .stopped) ∧
    (s.status ≠ .running → s.host .tickDt = s ∧ s.host .tickSt = s ∧
      (∀ rom, s.host (.load rom) = s) ∧
      (s.host .quit).status = s.status ∧ (s.host .reset).status = .running)

/-- The host's quit is observed before a step: STOPPED, all other state kept, no instruction run
(70_reset_and_hazards.md R174, by the spec's decision D28; log entry 3). -/
def Obligations.QuitStopsBetweenSteps : Prop :=
  ∀ s : State, s.status = .running →
    step (s.host .quit) = .next { s with quit := true, status := .stopped }

/-- A fatal error is precise: a step that halts leaves `V`, `I`, `PC`, `SP`, `STACK`, `DT`, `ST`, `MEM`
and `FB` as before the step, makes no display call, and `OP` holds the fetched word when the fetch
succeeded, else its old value (60_exceptions.md R140, by the spec's decision D4; log entry 17). -/
def Obligations.HaltingStepIsPrecise : Prop :=
  ∀ (s t : State) (e : FatalError), step s = .next t → t.status = .halted e →
    t.v = s.v ∧ t.i = s.i ∧ t.pc = s.pc ∧ t.sp = s.sp ∧ t.stack = s.stack ∧ t.dt = s.dt ∧
    t.st = s.st ∧ t.mem = s.mem ∧ t.fb = s.fb ∧ t.calls = [] ∧
    t.op = if s.pc.toNat ≤ 0xFFE then s.wordAtPc else s.op

/-- Every step keeps the invariant: memory canonical, `I` at most 0xFFF (10_state.md R26), `PC` at
most 0x10FE (R25), live stack entries at most 0xFFE (40_flow.md R92). -/
def Obligations.StepKeepsInvariant : Prop :=
  ∀ s t : State, s.Inv → step s = .next t → t.Inv

/-- The host's moves keep the invariant too, whatever ROM is loaded (70_reset_and_hazards.md R176). -/
def Obligations.HostMovesKeepInvariant : Prop :=
  ∀ (s : State) (m : HostMove), s.Inv → (s.host m).Inv

/-- Each instruction changes what its row of 10_state.md R23 (registers), R22 (`VF`), R26 to R29 (`I`,
stack, timers), R36 (display) and 20_memory.md R49 (memory) names, or raises and changes `STATE`
alone, and nothing else: the other registers, the timers, `OP`, every other byte of memory. -/
def Obligations.EveryInstructionStaysInItsFootprint : Prop :=
  ∀ (i : Instr) (s t : State), exec i s = .next t →
    (raises s i = none → Frame (footprint s i) s t) ∧
    (raises s i ≠ none → t.pc = s.pc ∧ Frame { status := true } s t)

/-- Which instruction raises which error, and when (60_exceptions.md R143): the error of the table
is taken exactly then, and otherwise the instruction answers a next state with `STATE` as before. -/
def Obligations.FatalErrorsExactly : Prop :=
  ∀ (i : Instr) (s : State), ∃ t, exec i s = .next t ∧
    t.status = match raises s i with
      | some e => .halted e
      | none => s.status

/-- The next `PC` of every instruction that does not raise (10_state.md R24). -/
def Obligations.NextPcOfEveryInstruction : Prop :=
  ∀ (i : Instr) (s : State), raises s i = none → ∃ t, exec i s = .next t ∧
    match i with
    | .jp nnn | .call nnn => t.pc.toNat = nnn.toNat
    | .jpV0 nnn => t.pc.toNat = nnn.toNat + (s.reg 0).toNat
    | .ret => ∀ j : Fin 16, j.val + 1 = s.sp.val → t.pc = s.stack[j.val] + 2#16
    | .seByte x kk => t.pc = if s.reg x = kk then s.pc + 4#16 else s.pc + 2#16
    | .sneByte x kk => t.pc = if s.reg x = kk then s.pc + 2#16 else s.pc + 4#16
    | .seReg x y => t.pc = if s.reg x = s.reg y then s.pc + 4#16 else s.pc + 2#16
    | .sneReg x y => t.pc = if s.reg x = s.reg y then s.pc + 2#16 else s.pc + 4#16
    | .skp x => t.pc = if s.input.keys.getLsbD (s.reg x).toNat then s.pc + 4#16 else s.pc + 2#16
    | .sknp x => t.pc = if s.input.keys.getLsbD (s.reg x).toNat then s.pc + 2#16 else s.pc + 4#16
    | .ldVxK _ => t.pc = if s.input.keys = 0#16 then s.pc else s.pc + 2#16
    | _ => t.pc = s.pc + 2#16

/-- `MEM` is written by `LD B, Vx` and `LD [I], Vx` alone, and only in the bytes at `I` they store to
(20_memory.md R45, R49): a byte that a step changes is one of those. -/
def Obligations.OnlyStoresWriteMemory : Prop :=
  ∀ (s t : State) (a : Nat), step s = .next t → t.mem.read a ≠ s.mem.read a →
    ∃ x, (decodeWord Config.strictDecode s.wordAtPc = .ok (.ldB x) ∧
        s.i.toNat ≤ a ∧ a < s.i.toNat + 3) ∨
      (decodeWord Config.strictDecode s.wordAtPc = .ok (.ldMemVx x) ∧
        s.i.toNat ≤ a ∧ a ≤ s.i.toNat + x.val)

/-- `I` is written only by `LD I, addr`, `ADD I, Vx` and `LD F, Vx`, with the values of 10_state.md
R26, and its bits 15:12 stay 0; so `LD [I],Vx` and `LD Vx,[I]` leave it unchanged. -/
def Obligations.OnlyIndexInstructionsWriteIndex : Prop :=
  ∀ s t : State, step s = .next t →
    (t.i = s.i ∨
      (∃ nnn, decodeWord Config.strictDecode s.wordAtPc = .ok (.ldI nnn) ∧ t.i.toNat = nnn.toNat) ∨
      (∃ x, decodeWord Config.strictDecode s.wordAtPc = .ok (.addI x) ∧
        t.i.toNat = (s.i.toNat + (s.reg x).toNat) % 0x1000) ∨
      (∃ x, decodeWord Config.strictDecode s.wordAtPc = .ok (.ldF x) ∧
        t.i.toNat = (s.reg x).toNat * 5)) ∧
    (s.i.toNat ≤ 0xFFF → t.i.toNat ≤ 0xFFF)

/-- The call stack is changed by `CALL` and `RET` alone, by one entry's depth (10_state.md R27). -/
def Obligations.OnlyCallAndRetTouchTheStack : Prop :=
  ∀ s t : State, step s = .next t →
    (t.stack = s.stack ∧ t.sp = s.sp) ∨
    (∃ nnn, decodeWord Config.strictDecode s.wordAtPc = .ok (.call nnn) ∧
      t.sp.val = s.sp.val + 1) ∨
    (decodeWord Config.strictDecode s.wordAtPc = .ok .ret ∧ t.stack = s.stack ∧
      t.sp.val + 1 = s.sp.val)

/-- A timer rises only by being armed: in every other step `DT` and `ST` keep or fall, whatever ticks
come (46_timers.md R130, 60_exceptions.md R150, R151). -/
def Obligations.TimersRiseOnlyWhenArmed : Prop :=
  ∀ s t : State, step s = .next t →
    (t.dt.toNat ≤ s.dt.toNat ∨
      ∃ x, decodeWord Config.strictDecode s.wordAtPc = .ok (.ldDtVx x) ∧
        t.dt.toNat ≤ (s.reg x).toNat) ∧
    (t.st.toNat ≤ s.st.toNat ∨
      ∃ x, decodeWord Config.strictDecode s.wordAtPc = .ok (.ldStVx x) ∧
        t.st.toNat ≤ (s.reg x).toNat)

/-- What comes from outside is read by the instructions that name it and by no other (30_encoding.md
R66): the keys and the choice among them by `SKP`, `SKNP` and `LD Vx,K`, the random byte by `RND`.
Two runs of one instruction that differ only there otherwise give the same state. -/
def Obligations.OutsideInputsReadOnlyByTheirInstructions : Prop :=
  ∀ (i : Instr) (s t : State) (a b : Input),
    ((∃ x, i = .skp x ∨ i = .sknp x ∨ i = .ldVxK x) → a.keys = b.keys ∧ a.pick = b.pick) →
    ((∃ x kk, i = .rnd x kk) → a.rand = b.rand) →
    exec i { s with script := [a] } = .next t →
    exec i { s with script := [b] } = .next { t with script := [b] }

/-- No instruction reads `ST` (10_state.md R29): two runs that differ only in `ST` differ in nothing
else afterwards. -/
def Obligations.NoInstructionReadsSoundTimer : Prop :=
  ∀ (i : Instr) (s t : State) (b : Byte), exec i s = .next t →
    ∃ u, exec i { s with st := b } = .next u ∧ { u with st := t.st } = t

/-! ### Flow -/

/-- `JP addr` (40_flow.md R90): `PC` is exactly `nnn`. That a target above 0xFFE is no fault of the jump
and faults at the next fetch, unmasked, rests on the spec's decisions D2 and D20 (10_state.md R25,
40_flow.md R88; log entry 18). -/
def Obligations.JumpSetsPc : Prop :=
  ∀ (nnn : Addr) (s : State),
    Decodes (0x1000 + nnn.toNat) (.jp nnn) ∧
    ∃ t, exec (.jp nnn) s = .next t ∧ t.pc.toNat = nnn.toNat ∧ Frame {} s t ∧
      (0xFFE < nnn.toNat → t.fetch = .error (.outOfMemory t.pc 2))

/-- `CALL addr` (40_flow.md R91): it pushes its own address; at depth 16 it raises
`StackFault(overflow)` and nothing is written. -/
def Obligations.CallPushesItsAddress : Prop :=
  ∀ (nnn : Addr) (s : State),
    Decodes (0x2000 + nnn.toNat) (.call nnn) ∧
    (∀ j : Fin 16, j.val = s.sp.val → ∃ t, exec (.call nnn) s = .next t ∧
      t.stack[j.val] = s.pc ∧ t.sp.val = s.sp.val + 1 ∧ t.pc.toNat = nnn.toNat ∧
      Frame { slots := fun k => k == j, depth := true } s t) ∧
    (s.sp.val = 16 → ∃ t, exec (.call nnn) s = .next t ∧
      t.status = .halted (.stackFault .overflow) ∧ t.pc = s.pc ∧ Frame { status := true } s t)

/-- `RET` (40_flow.md R92): the popped entry plus 2; at depth 0 it raises `StackFault(underflow)` and
nothing is written. Its word is `0xEE` for every `x` (30_encoding.md R70). -/
def Obligations.ReturnPopsAndAddsTwo : Prop :=
  ∀ (x : Reg) (s : State),
    Decodes (0x00EE + x.val * 0x100) .ret ∧
    (∀ j : Fin 16, j.val + 1 = s.sp.val → ∃ t, exec .ret s = .next t ∧
      t.pc = s.stack[j.val] + 2#16 ∧ t.sp.val = j.val ∧ Frame { depth := true } s t) ∧
    (s.sp.val = 0 → ∃ t, exec .ret s = .next t ∧
      t.status = .halted (.stackFault .underflow) ∧ t.pc = s.pc ∧ Frame { status := true } s t)

/-- A `CALL` and then a `RET` resume at the address after the `CALL`, with the stack's live part as
before (90_conflicts.md C3, 95_test_vectors.md W3). -/
def Obligations.CallThenReturnResumesAfterCall : Prop :=
  ∀ (nnn : Addr) (s : State), s.sp.val < 16 →
    ∃ t u, exec (.call nnn) s = .next t ∧ exec .ret t = .next u ∧
      u.pc = s.pc + 2#16 ∧ u.sp = s.sp ∧
      Frame { slots := fun j => j.val == s.sp.val } s u

/-- `JP V0, addr`: an unmasked sum with `V[0]` (40_flow.md R93, by the spec's decisions D20 and D24;
log entries 10 and 18). -/
def Obligations.JumpIndexedByV0 : Prop :=
  ∀ (nnn : Addr) (s : State),
    Decodes (0xB000 + nnn.toNat) (.jpV0 nnn) ∧
    ∃ t, exec (.jpV0 nnn) s = .next t ∧ t.pc.toNat = nnn.toNat + (s.reg 0).toNat ∧ Frame {} s t

/-! ### Skips -/

/-- `SE Vx, byte` and `SNE Vx, byte` (41_skip.md R94, R95): a skip writes only `PC`. -/
def Obligations.SkipOnByte : Prop :=
  ∀ (x : Reg) (kk : Byte) (s : State),
    Decodes (0x3000 + x.val * 0x100 + kk.toNat) (.seByte x kk) ∧
    Decodes (0x4000 + x.val * 0x100 + kk.toNat) (.sneByte x kk) ∧
    (∃ t, exec (.seByte x kk) s = .next t ∧
      t.pc = (if s.reg x = kk then s.pc + 4#16 else s.pc + 2#16) ∧ Frame {} s t) ∧
    (∃ t, exec (.sneByte x kk) s = .next t ∧
      t.pc = (if s.reg x ≠ kk then s.pc + 4#16 else s.pc + 2#16) ∧ Frame {} s t)

/-- `SE Vx, Vy` and `SNE Vx, Vy` (41_skip.md R96, R97), the low nibble ignored by default and required
to be 0 strictly. -/
def Obligations.SkipOnRegister : Prop :=
  ∀ (x y : Reg) (n : Nibble) (s : State),
    Decodes (0x5000 + x.val * 0x100 + y.val * 0x10 + n.toNat) (.seReg x y) ∧
    Decodes (0x9000 + x.val * 0x100 + y.val * 0x10 + n.toNat) (.sneReg x y) ∧
    (n ≠ 0#4 → ∀ w : Word, (w.toNat = 0x5000 + x.val * 0x100 + y.val * 0x10 + n.toNat ∨
      w.toNat = 0x9000 + x.val * 0x100 + y.val * 0x10 + n.toNat) →
      decodeWord true w = .error (.unknownOpcode w)) ∧
    (∃ t, exec (.seReg x y) s = .next t ∧
      t.pc = (if s.reg x = s.reg y then s.pc + 4#16 else s.pc + 2#16) ∧ Frame {} s t) ∧
    (∃ t, exec (.sneReg x y) s = .next t ∧
      t.pc = (if s.reg x ≠ s.reg y then s.pc + 4#16 else s.pc + 2#16) ∧ Frame {} s t)

/-- `SKP Vx` and `SKNP Vx` (41_skip.md R98, R99), for every key snapshot; a key above 0xF is
`InvalidKey(V[x])`, by the spec's decision D9 (log entry 15), and nothing is written. -/
def Obligations.SkipOnKey : Prop :=
  ∀ (x : Reg) (s : State),
    ((s.reg x).toNat ≤ 0xF →
      (∃ t, exec (.skp x) s = .next t ∧
        t.pc = (if s.input.keys.getLsbD (s.reg x).toNat = true then s.pc + 4#16 else s.pc + 2#16) ∧
        Frame {} s t) ∧
      (∃ t, exec (.sknp x) s = .next t ∧
        t.pc = (if s.input.keys.getLsbD (s.reg x).toNat = false then s.pc + 4#16 else s.pc + 2#16) ∧
        Frame {} s t)) ∧
    (0xF < (s.reg x).toNat →
      (∃ t, exec (.skp x) s = .next t ∧ t.status = .halted (.invalidKey (s.reg x)) ∧
        t.pc = s.pc ∧ Frame { status := true } s t) ∧
      (∃ t, exec (.sknp x) s = .next t ∧ t.status = .halted (.invalidKey (s.reg x)) ∧
        t.pc = s.pc ∧ Frame { status := true } s t))

/-! ### Loads and arithmetic -/

/-- `LD Vx, byte` and `LD Vx, Vy` (42_load_arith.md R101, R103). -/
def Obligations.LoadRegister : Prop :=
  ∀ (x y : Reg) (kk : Byte) (s : State),
    Decodes (0x6000 + x.val * 0x100 + kk.toNat) (.ldByte x kk) ∧
    Decodes (0x8000 + x.val * 0x100 + y.val * 0x10) (.ldReg x y) ∧
    (∃ t, exec (.ldByte x kk) s = .next t ∧ t.reg x = kk ∧ t.pc = s.pc + 2#16 ∧
      Frame { regs := only x } s t) ∧
    (∃ t, exec (.ldReg x y) s = .next t ∧ t.reg x = s.reg y ∧ t.pc = s.pc + 2#16 ∧
      Frame { regs := only x } s t)

/-- `ADD Vx, byte` (42_load_arith.md R102): modulo 256, and `VF` is untouched unless it is `Vx`. -/
def Obligations.AddByteTouchesNoFlag : Prop :=
  ∀ (x : Reg) (kk : Byte) (s : State),
    Decodes (0x7000 + x.val * 0x100 + kk.toNat) (.addByte x kk) ∧
    ∃ t, exec (.addByte x kk) s = .next t ∧
      (t.reg x).toNat = ((s.reg x).toNat + kk.toNat) % 256 ∧ t.pc = s.pc + 2#16 ∧
      Frame { regs := only x } s t

/-- `OR`, `AND` and `XOR` (42_load_arith.md R104 to R106), bit by bit. That `VF` is not reset is the
spec's decision D7 (log entry 13). -/
def Obligations.BitwiseOperations : Prop :=
  ∀ (x y : Reg) (s : State),
    (∃ t, exec (.orReg x y) s = .next t ∧
      (∀ k < 8, (t.reg x).getLsbD k = ((s.reg x).getLsbD k || (s.reg y).getLsbD k)) ∧
      t.pc = s.pc + 2#16 ∧ Frame { regs := only x } s t) ∧
    (∃ t, exec (.andReg x y) s = .next t ∧
      (∀ k < 8, (t.reg x).getLsbD k = ((s.reg x).getLsbD k && (s.reg y).getLsbD k)) ∧
      t.pc = s.pc + 2#16 ∧ Frame { regs := only x } s t) ∧
    (∃ t, exec (.xorReg x y) s = .next t ∧
      (∀ k < 8, (t.reg x).getLsbD k = ((s.reg x).getLsbD k ^^ (s.reg y).getLsbD k)) ∧
      t.pc = s.pc + 2#16 ∧ Frame { regs := only x } s t)

/-- `ADD Vx, Vy` (42_load_arith.md R107): `VF` is the carry for every `x`, and `V[x]` the sum unless `x`
is `VF` itself, whose sum is lost (R100, by the spec's decision D6; log entry 12). -/
def Obligations.AddSetsCarry : Prop :=
  ∀ (x y : Reg) (s : State),
    Decodes (0x8004 + x.val * 0x100 + y.val * 0x10) (.addReg x y) ∧
    ∃ t, exec (.addReg x y) s = .next t ∧
      (x ≠ vf → (t.reg x).toNat = ((s.reg x).toNat + (s.reg y).toNat) % 256) ∧
      t.reg vf = (if 0xFF < (s.reg x).toNat + (s.reg y).toNat then 1#8 else 0#8) ∧
      t.pc = s.pc + 2#16 ∧ Frame { regs := withFlag x } s t

/-- `SUB` and `SUBN` (42_load_arith.md R108, R109): for every `x` the flag is strictly greater, so equal
operands give 0, and `V[x]` is the difference unless `x` is `VF` itself (R100, by the spec's decision
D6; log entry 12). -/
def Obligations.SubtractSetsNoBorrow : Prop :=
  ∀ (x y : Reg) (s : State),
    Decodes (0x8005 + x.val * 0x100 + y.val * 0x10) (.subReg x y) ∧
    Decodes (0x8007 + x.val * 0x100 + y.val * 0x10) (.subnReg x y) ∧
    (∃ t, exec (.subReg x y) s = .next t ∧
      (x ≠ vf → (t.reg x).toNat = ((s.reg x).toNat + 256 - (s.reg y).toNat) % 256) ∧
      t.reg vf = (if (s.reg y).toNat < (s.reg x).toNat then 1#8 else 0#8) ∧
      t.pc = s.pc + 2#16 ∧ Frame { regs := withFlag x } s t) ∧
    (∃ t, exec (.subnReg x y) s = .next t ∧
      (x ≠ vf → (t.reg x).toNat = ((s.reg y).toNat + 256 - (s.reg x).toNat) % 256) ∧
      t.reg vf = (if (s.reg x).toNat < (s.reg y).toNat then 1#8 else 0#8) ∧
      t.pc = s.pc + 2#16 ∧ Frame { regs := withFlag x } s t)

/-- `SHR` and `SHL` (42_load_arith.md R110, R111), whatever `y` is: by one, the bit shifted out to `VF`
for every `x`, and `V[x]` the shifted value unless `x` is `VF` itself (R100, by the spec's decision
D6; log entry 12). -/
def Obligations.ShiftByOne : Prop :=
  ∀ (x y : Reg) (s : State),
    Decodes (0x8006 + x.val * 0x100 + y.val * 0x10) (.shrReg x y) ∧
    Decodes (0x800E + x.val * 0x100 + y.val * 0x10) (.shlReg x y) ∧
    (∃ t, exec (.shrReg x y) s = .next t ∧
      (x ≠ vf → (t.reg x).toNat = (s.reg x).toNat / 2) ∧
      (t.reg vf).toNat = (s.reg x).toNat % 2 ∧
      t.pc = s.pc + 2#16 ∧ Frame { regs := withFlag x } s t) ∧
    (∃ t, exec (.shlReg x y) s = .next t ∧
      (x ≠ vf → (t.reg x).toNat = (s.reg x).toNat * 2 % 256) ∧
      (t.reg vf).toNat = (s.reg x).toNat / 128 ∧
      t.pc = s.pc + 2#16 ∧ Frame { regs := withFlag x } s t)

/-- When the destination of a flag-setting instruction is `VF`, `VF` ends as the flag and the result
is lost (42_load_arith.md R100, by the spec's decision D6; log entry 12). -/
def Obligations.FlagReplacesResult : Prop :=
  ∀ (y : Reg) (s : State),
    (∃ t, exec (.addReg vf y) s = .next t ∧
      (t.reg vf).toNat = ((s.reg vf).toNat + (s.reg y).toNat) / 256 ∧ Frame { regs := only vf } s t) ∧
    (∃ t, exec (.subReg vf y) s = .next t ∧
      t.reg vf = (if (s.reg y).toNat < (s.reg vf).toNat then 1#8 else 0#8) ∧
      Frame { regs := only vf } s t) ∧
    (∃ t, exec (.subnReg vf y) s = .next t ∧
      t.reg vf = (if (s.reg vf).toNat < (s.reg y).toNat then 1#8 else 0#8) ∧
      Frame { regs := only vf } s t) ∧
    (∃ t, exec (.shrReg vf y) s = .next t ∧ (t.reg vf).toNat = (s.reg vf).toNat % 2 ∧
      Frame { regs := only vf } s t) ∧
    (∃ t, exec (.shlReg vf y) s = .next t ∧ (t.reg vf).toNat = (s.reg vf).toNat / 128 ∧
      Frame { regs := only vf } s t)

/-! ### Index and memory -/

/-- `LD I, addr` (43_index_memory.md R115). -/
def Obligations.LoadIndex : Prop :=
  ∀ (nnn : Addr) (s : State),
    Decodes (0xA000 + nnn.toNat) (.ldI nnn) ∧
    ∃ t, exec (.ldI nnn) s = .next t ∧ t.i.toNat = nnn.toNat ∧ t.pc = s.pc + 2#16 ∧
      Frame { index := true } s t

/-- `ADD I, Vx` (43_index_memory.md R116): a 12-bit sum, `VF` 1 on overflow past 0xFFF. That `VF` is 0
otherwise is the spec's decision D5 and that it is written last D6 (log entries 11 and 12). -/
def Obligations.AddIndexSetsOverflow : Prop :=
  ∀ (x : Reg) (s : State), ∃ t, exec (.addI x) s = .next t ∧
    t.i.toNat = (s.i.toNat + (s.reg x).toNat) % 0x1000 ∧
    t.reg vf = (if 0xFFF < s.i.toNat + (s.reg x).toNat then 1#8 else 0#8) ∧
    t.pc = s.pc + 2#16 ∧ Frame { regs := only vf, index := true } s t

/-- `LD F, Vx` (43_index_memory.md R117): `I` is `V[x] * 5`, all 8 bits used by the spec's decision D8
(log entry 14); for a digit 0 to 15 the five bytes there after reset are the digit's glyph in the
font (10_state.md R32, R33; bytes by decision D16, log entry 6). -/
def Obligations.LoadGlyphAddress : Prop :=
  ∀ (x : Reg) (s : State), ∃ t, exec (.ldF x) s = .next t ∧
    t.i.toNat = (s.reg x).toNat * 5 ∧ t.pc = s.pc + 2#16 ∧ Frame { index := true } s t ∧
    ((s.reg x).toNat ≤ 0xF →
      State.reset.mem.readBytes t.i.toNat 5 = (Config.font.drop (5 * (s.reg x).toNat)).take 5)

/-- `LD B, Vx` (43_index_memory.md R118): hundreds, tens and ones at `I`, `I+1`, `I+2`; past 0xFFF it
raises `OutOfMemory(I, 3)` and no byte is written, by the spec's decision D14 (log entry 17). -/
def Obligations.StoreDecimalDigits : Prop :=
  ∀ (x : Reg) (s : State),
    (s.i.toNat + 2 ≤ 0xFFF → ∃ t, exec (.ldB x) s = .next t ∧
      (t.mem.read s.i.toNat).toNat = (s.reg x).toNat / 100 ∧
      (t.mem.read (s.i.toNat + 1)).toNat = (s.reg x).toNat / 10 % 10 ∧
      (t.mem.read (s.i.toNat + 2)).toNat = (s.reg x).toNat % 10 ∧
      t.pc = s.pc + 2#16 ∧ Frame { bytes := span s.i.toNat 3 } s t) ∧
    (0xFFF < s.i.toNat + 2 → ∃ t, exec (.ldB x) s = .next t ∧
      t.status = .halted (.outOfMemory s.i 3) ∧ t.pc = s.pc ∧ Frame { status := true } s t)

/-- `LD [I], Vx` (43_index_memory.md R119): `V[0]` to `V[x]` at `I` on, `I` unchanged; past 0xFFF it
raises `OutOfMemory(I, x + 1)` and no byte is written, by the spec's decision D14 (log entry 17). -/
def Obligations.StoreRegisters : Prop :=
  ∀ (x : Reg) (s : State),
    (s.i.toNat + x.val ≤ 0xFFF → ∃ t, exec (.ldMemVx x) s = .next t ∧
      (∀ r : Reg, r ≤ x → t.mem.read (s.i.toNat + r.val) = s.reg r) ∧
      t.pc = s.pc + 2#16 ∧ Frame { bytes := span s.i.toNat (x.val + 1) } s t) ∧
    (0xFFF < s.i.toNat + x.val → ∃ t, exec (.ldMemVx x) s = .next t ∧
      t.status = .halted (.outOfMemory s.i (x.val + 1)) ∧ t.pc = s.pc ∧
      Frame { status := true } s t)

/-- `LD Vx, [I]` (43_index_memory.md R120): `V[0]` to `V[x]` from `I` on, `I` unchanged; past 0xFFF it
raises `OutOfMemory(I, x + 1)` and no register is written, by the spec's decision D14 (log entry
17). -/
def Obligations.LoadRegisters : Prop :=
  ∀ (x : Reg) (s : State),
    (s.i.toNat + x.val ≤ 0xFFF → ∃ t, exec (.ldVxMem x) s = .next t ∧
      (∀ r : Reg, r ≤ x → t.reg r = s.mem.read (s.i.toNat + r.val)) ∧
      t.pc = s.pc + 2#16 ∧ Frame { regs := fun r => decide (r ≤ x) } s t) ∧
    (0xFFF < s.i.toNat + x.val → ∃ t, exec (.ldVxMem x) s = .next t ∧
      t.status = .halted (.outOfMemory s.i (x.val + 1)) ∧ t.pc = s.pc ∧
      Frame { status := true } s t)

/-- The round trip (43_index_memory.md R121): after `LD [I],Vx`, any state with the same `I` and the
same bytes at `I` to `I+x`, whatever its registers hold, gets `V[0]` to `V[x]` back by `LD Vx,[I]`. -/
def Obligations.StoreThenLoadRestoresRegisters : Prop :=
  ∀ (x : Reg) (s : State), s.i.toNat + x.val ≤ 0xFFF →
    ∃ t, exec (.ldMemVx x) s = .next t ∧ t.i = s.i ∧
      ∀ u : State, u.i = t.i →
        (∀ a, t.i.toNat ≤ a → a ≤ t.i.toNat + x.val → u.mem.read a = t.mem.read a) →
        ∃ w, exec (.ldVxMem x) u = .next w ∧ w.i = s.i ∧ ∀ r : Reg, r ≤ x → w.reg r = s.reg r

/-- A store is seen by the next fetch (20_memory.md R58, by the spec's decision D21; log entry 19):
after `LD [I],Vx` and after `LD B,Vx`, a fetch anywhere gets in each of its two bytes the byte
stored there, and the byte from before the store where none was. -/
def Obligations.StoredBytesAreFetched : Prop :=
  ∀ (x : Reg) (s : State),
    (s.i.toNat + x.val ≤ 0xFFF → ∃ t, exec (.ldMemVx x) s = .next t ∧
      let after (a : Nat) : Byte :=
        if s.i.toNat ≤ a ∧ a ≤ s.i.toNat + x.val then s.reg (Fin.ofNat 16 (a - s.i.toNat))
        else s.mem.read a
      ∀ target : Word, target.toNat ≤ 0xFFE →
        (t.setPc target).fetch = .ok (bigEndian (after target.toNat) (after (target.toNat + 1)))) ∧
    (s.i.toNat + 2 ≤ 0xFFF → ∃ t, exec (.ldB x) s = .next t ∧
      let after (a : Nat) : Byte :=
        if a = s.i.toNat then BitVec.ofNat 8 ((s.reg x).toNat / 100)
        else if a = s.i.toNat + 1 then BitVec.ofNat 8 ((s.reg x).toNat / 10 % 10)
        else if a = s.i.toNat + 2 then BitVec.ofNat 8 ((s.reg x).toNat % 10)
        else s.mem.read a
      ∀ target : Word, target.toNat ≤ 0xFFE →
        (t.setPc target).fetch = .ok (bigEndian (after target.toNat) (after (target.toNat + 1))))

/-! ### Random, display, timers, input, SYS -/

/-- `RND Vx, byte` (44_random.md R122): the step's random byte, whatever it is, masked by `kk`. -/
def Obligations.RandomByteIsMasked : Prop :=
  ∀ (x : Reg) (kk : Byte) (s : State),
    Decodes (0xC000 + x.val * 0x100 + kk.toNat) (.rnd x kk) ∧
    ∃ t, exec (.rnd x kk) s = .next t ∧
      (∀ k < 8, (t.reg x).getLsbD k = (s.input.rand.getLsbD k && kk.getLsbD k)) ∧
      t.pc = s.pc + 2#16 ∧ Frame { regs := only x } s t

/-- `CLS` (45_display.md R124): every pixel clear, and the one display call `clear()`; that it makes
no `present()` call is the spec's decision D30 (log entry 20). -/
def Obligations.ClearDisplay : Prop :=
  ∀ s : State, ∃ t, exec .cls s = .next t ∧ (∀ row col, t.fb.pixel row col = false) ∧
    t.calls = s.calls ++ [.clear] ∧ t.pc = s.pc + 2#16 ∧ Frame { display := true } s t

/-- `DRW Vx, Vy, n` (45_display.md R125): the `n` bytes at `I` are drawn at `(V[x], V[y])`, every pixel
they cover inverted and no other, `VF` 1 exactly when one of those was set before, and `blit` and
`present` are called. `n = 0` draws nothing (decision D13), pixels wrap (D12), and past 0xFFF it raises
`OutOfMemory(I, n)` with nothing changed (D14) (log entries 16 and 17). The flag is that of the rule's
pseudocode and Flags line, also where its corner case on a second draw differs (log entry 29). -/
def Obligations.DrawSprite : Prop :=
  ∀ (x y : Reg) (n : Nibble) (s : State),
    let rows := s.mem.readBytes s.i.toNat n.toNat
    ((n = 0#4 ∨ s.i.toNat + n.toNat ≤ 0x1000) → ∃ t, exec (.drw x y n) s = .next t ∧
      (∀ row col, SpriteCovers rows (s.reg x) (s.reg y) row col →
        t.fb.pixel row col = !s.fb.pixel row col) ∧
      (∀ row col, ¬SpriteCovers rows (s.reg x) (s.reg y) row col →
        t.fb.pixel row col = s.fb.pixel row col) ∧
      (t.reg vf = 1#8 ∨ t.reg vf = 0#8) ∧
      (t.reg vf = 1#8 ↔ ∃ row col, SpriteCovers rows (s.reg x) (s.reg y) row col ∧
        s.fb.pixel row col = true) ∧
      t.calls = s.calls ++ [.blit rows (s.reg x) (s.reg y), .present] ∧
      t.pc = s.pc + 2#16 ∧ Frame { regs := only vf, display := true } s t) ∧
    (n ≠ 0#4 → 0x1000 < s.i.toNat + n.toNat → ∃ t, exec (.drw x y n) s = .next t ∧
      t.status = .halted (.outOfMemory s.i n.toNat) ∧ t.pc = s.pc ∧ Frame { status := true } s t)

/-- XOR idempotence (45_display.md R127): the same sprite drawn twice at the same place restores the
grid. The second draw collides exactly when the first set a pixel that was clear, so for a sprite
with a set bit on clear ground it does; where the sprite covers only pixels already set it does not,
by the algorithm of R126, although R127 says so of every grid (log entry 29). A sprite has at most
15 rows. -/
def Obligations.DrawTwiceRestoresGrid : Prop :=
  ∀ (g : Grid) (rows : List Byte) (cx cy : Byte), rows.length ≤ 15 →
    ((g.blit rows cx cy).1.blit rows cx cy).1 = g ∧
    (((g.blit rows cx cy).1.blit rows cx cy).2 = true ↔
      ∃ row col, SpriteCovers rows cx cy row col ∧ g.pixel row col = false) ∧
    ((∃ b ∈ rows, b ≠ 0#8) → (∀ row col, SpriteCovers rows cx cy row col →
      g.pixel row col = false) → ((g.blit rows cx cy).1.blit rows cx cy).2 = true)

/-- `LD Vx, DT`, `LD DT, Vx` and `LD ST, Vx` (46_timers.md R130, R131, R132), `AUDIO_ON` following `ST`
(10_state.md R38). -/
def Obligations.TimerInstructions : Prop :=
  ∀ (x : Reg) (s : State),
    Decodes (0xF007 + x.val * 0x100) (.ldVxDt x) ∧ Decodes (0xF015 + x.val * 0x100) (.ldDtVx x) ∧
    Decodes (0xF018 + x.val * 0x100) (.ldStVx x) ∧
    (∃ t, exec (.ldVxDt x) s = .next t ∧ t.reg x = s.dt ∧ t.pc = s.pc + 2#16 ∧
      Frame { regs := only x } s t) ∧
    (∃ t, exec (.ldDtVx x) s = .next t ∧ t.dt = s.reg x ∧ t.pc = s.pc + 2#16 ∧
      Frame { dt := true } s t) ∧
    (∃ t, exec (.ldStVx x) s = .next t ∧ t.st = s.reg x ∧
      (t.audioOn = true ↔ (s.reg x).toNat ≠ 0) ∧ t.pc = s.pc + 2#16 ∧ Frame { st := true } s t)

/-- A tick takes exactly 1 off its timer while that is above 0, leaves it at 0, and writes nothing
else; the two timers are independent (60_exceptions.md R150). -/
def Obligations.TickTakesOneOff : Prop :=
  ∀ s : State, s.status = .running →
    s.host .tickDt = { s with dt := if 0 < s.dt.toNat then s.dt - 1#8 else s.dt } ∧
    s.host .tickSt = { s with st := if 0 < s.st.toNat then s.st - 1#8 else s.st }

/-- What falls between two steps is a number of single ticks of each timer and nothing else
(30_encoding.md R86, 60_exceptions.md R151): a step's end state is what the host's tick moves make
of the instruction's, the inputs of the step being used up (log entries 1 and 2). -/
def Obligations.BetweenStepsOnlyTicksFall : Prop :=
  ∀ t : State,
    t.betweenSteps =
      ((fun u : State => u.host .tickSt)^[t.input.stTicks]
        ((fun u : State => u.host .tickDt)^[t.input.dtTicks] t)).nextInput

/-- `LD Vx, K` (47_input.md R133): with no key down the step writes nothing and holds `PC`; else `V[x]`
is a key that is down, and each of those is the answer for some choice, by the spec's decision D10
(log entry 1). -/
def Obligations.WaitForKey : Prop :=
  ∀ (x : Reg) (s : State),
    (s.input.keys = 0#16 → exec (.ldVxK x) s = .next s) ∧
    (s.input.keys ≠ 0#16 → ∃ t, exec (.ldVxK x) s = .next t ∧
      (t.reg x).toNat < 16 ∧ s.input.keys.getLsbD (t.reg x).toNat = true ∧
      t.pc = s.pc + 2#16 ∧ Frame { regs := only x } s t) ∧
    (∀ k < 16, s.input.keys.getLsbD k = true → ∃ (pick : Nat) (t : State),
      exec (.ldVxK x) { s with script := [{ s.input with pick := pick }] } = .next t ∧
      (t.reg x).toNat = k)

/-- `SYS addr` (48_unimplemented.md R135): a no-op that only advances `PC`, for every class-0 word
that is not `CLS` or `RET`. -/
def Obligations.SysIsANoOp : Prop :=
  ∀ (nnn : Addr) (s : State),
    (Decodes nnn.toNat (.sys nnn) ↔ nnn.toNat % 0x100 ≠ 0xE0 ∧ nnn.toNat % 0x100 ≠ 0xEE) ∧
    ∃ t, exec (.sys nnn) s = .next t ∧ t.pc = s.pc + 2#16 ∧ Frame {} s t

/-! ### The host -/

/-- `LOAD(rom)` in a running machine (70_reset_and_hazards.md R165, R166; in one that has ended see
`EndedMachineTakesNoStep`): byte `k` of the ROM at 0x200 + `k` and nothing else;
unreadable is `IoFault` and more than 3584 bytes `OutOfMemory(0x200, len)`, with no byte written, by
the spec's decision D35 (log entry 21). -/
def Obligations.LoadCopiesRom : Prop :=
  ∀ s : State, s.status = .running →
    (s.host (.load none)).status = .halted .ioFault ∧ (s.host (.load none)).pc = s.pc ∧
    Frame { status := true } s (s.host (.load none)) ∧
    ∀ rom : List Byte,
      (s.host (.load (some rom))).pc = s.pc ∧
      (rom.length ≤ 3584 →
        (∀ k (h : k < rom.length), (s.host (.load (some rom))).mem.read (0x200 + k) = rom[k]) ∧
        Frame { bytes := span 0x200 rom.length } s (s.host (.load (some rom)))) ∧
      (3584 < rom.length →
        (s.host (.load (some rom))).status = .halted (.outOfMemory 0x200#16 rom.length) ∧
        Frame { status := true } s (s.host (.load (some rom))))

/-! ### The parameters -/

/-- The parameters of 00_scope.md R10 are arguments of the reset and of the step (log entry 30): a reset
leaves the font it is given (10_state.md R33) and, with `RESET_ARBITRARY`, the free values of R42, drawn anew (log entry 21); a
step decodes by the `STRICT_DECODE` it is given (30_encoding.md R70). -/
def Obligations.ParametersAreArguments : Prop :=
  ∀ (p : Params) (s : State),
    (∀ k : Fin 80, (s.hostWith p .reset).mem.read k.val = p.font[k.val]) ∧
    (∀ a : Nat, 80 ≤ a → (s.hostWith p .reset).mem.read a =
      if p.resetArbitrary = true ∧ a < 0x200 then Config.resetMem (s.draws + 1) a else 0#8) ∧
    (∀ r : Reg, (s.hostWith p .reset).reg r =
      if p.resetArbitrary = true then Config.resetV (s.draws + 1) r.val else 0#8) ∧
    (s.hostWith p .reset).i.toNat =
      (if p.resetArbitrary = true then (Config.resetI (s.draws + 1)).toNat else 0) ∧
    (s.hostWith p .reset).dt =
      (if p.resetArbitrary = true then Config.resetDt (s.draws + 1) else 0#8) ∧
    (s.hostWith p .reset).st =
      (if p.resetArbitrary = true then Config.resetSt (s.draws + 1) else 0#8) ∧
    (s.status = .running → s.quit = false → s.pc.toNat ≤ 0xFFE →
      (∀ i, decodeWord p.strictDecode s.wordAtPc = .ok i →
        ∃ t, exec i { s with calls := [], op := s.wordAtPc } = .next t ∧
          stepWith p s = .next t.reportAudio.betweenSteps) ∧
      (∀ e, decodeWord p.strictDecode s.wordAtPc = .error e →
        ∃ t, stepWith p s = .next t ∧ t.status = .halted (.unknownOpcode s.wordAtPc)))
end

