-- ==== Sys2Proof/Laws/Decode.lean ====
section
/-! SUPPORT. The fields and the packed words as numbers (30_encoding.md R64), so that questions about
encodings are linear arithmetic. -/

namespace Sys2Proof

/-! ### Fields -/

theorem fieldClass_toNat (w : Word) : (fieldClass w).toNat = w.toNat / 4096 % 16 := by
  simp [fieldClass, Nat.shiftRight_eq_div_pow]

theorem fieldX_val (w : Word) : (fieldX w).val = w.toNat / 256 % 16 := by
  have : (fieldX w).val = (w.extractLsb' 8 4).toNat := rfl
  simp [this, Nat.shiftRight_eq_div_pow]

theorem fieldY_val (w : Word) : (fieldY w).val = w.toNat / 16 % 16 := by
  have : (fieldY w).val = (w.extractLsb' 4 4).toNat := rfl
  simp [this, Nat.shiftRight_eq_div_pow]

theorem fieldN_toNat (w : Word) : (fieldN w).toNat = w.toNat % 16 := by
  simp [fieldN]

theorem fieldKK_toNat (w : Word) : (fieldKK w).toNat = w.toNat % 256 := by
  simp [fieldKK]

theorem fieldNNN_toNat (w : Word) : (fieldNNN w).toNat = w.toNat % 4096 := by
  simp [fieldNNN]

/-! ### Packed words -/

/-- Concatenation as arithmetic. -/
theorem toNat_append_eq {m n : Nat} (a : BitVec m) (b : BitVec n) :
    (a ++ b).toNat = a.toNat * 2 ^ n + b.toNat := by
  rw [BitVec.toNat_append, ← Nat.shiftLeft_add_eq_or_of_lt b.isLt, Nat.shiftLeft_eq]

theorem packA_toNat (op : Nibble) (nnn : Addr) :
    (packA op nnn).toNat = op.toNat * 4096 + nnn.toNat :=
  toNat_append_eq op nnn

theorem packXKK_toNat (op : Nibble) (x : Reg) (kk : Byte) :
    (packXKK op x kk).toNat = op.toNat * 4096 + x.val * 256 + kk.toNat := by
  have h1 : (packXKK op x kk).toNat = (op ++ (BitVec.ofFin x : Nibble)).toNat * 2 ^ 8 + kk.toNat :=
    toNat_append_eq _ _
  have h2 : (op ++ (BitVec.ofFin x : Nibble)).toNat = op.toNat * 2 ^ 4 + x.val :=
    toNat_append_eq _ _
  rw [h1, h2]
  omega

theorem packXYN_toNat (op : Nibble) (x y : Reg) (n : Nibble) :
    (packXYN op x y n).toNat = op.toNat * 4096 + x.val * 256 + y.val * 16 + n.toNat := by
  have h1 : (packXYN op x y n).toNat =
      (op ++ (BitVec.ofFin x : Nibble) ++ (BitVec.ofFin y : Nibble)).toNat * 2 ^ 4 + n.toNat :=
    toNat_append_eq _ _
  have h2 : (op ++ (BitVec.ofFin x : Nibble) ++ (BitVec.ofFin y : Nibble)).toNat =
      (op ++ (BitVec.ofFin x : Nibble)).toNat * 2 ^ 4 + y.val :=
    toNat_append_eq _ _
  have h3 : (op ++ (BitVec.ofFin x : Nibble)).toNat = op.toNat * 2 ^ 4 + x.val :=
    toNat_append_eq _ _
  rw [h1, h2, h3]
  omega

theorem bigEndian_toNat (hi lo : Byte) : (bigEndian hi lo).toNat = hi.toNat * 256 + lo.toNat :=
  toNat_append_eq hi lo

/-- A word laid out in bytes and read back is the word (20_memory.md R46). -/
theorem bigEndian_wordBytes (w : Word) :
    bigEndian (w.extractLsb' 8 8) (w.extractLsb' 0 8) = w := by
  apply BitVec.eq_of_toNat_eq
  rw [bigEndian_toNat]
  have := w.isLt
  simp [Nat.shiftRight_eq_div_pow]
  omega

/-! ### The bits of a packed word -/

theorem packA_getLsbD (op : Nibble) (nnn : Addr) (k : Nat) :
    (packA op nnn).getLsbD k = if k < 12 then nnn.getLsbD k else op.getLsbD (k - 12) :=
  BitVec.getLsbD_append (x := op) (y := nnn) (i := k)

theorem packXKK_getLsbD (op : Nibble) (x : Reg) (kk : Byte) (k : Nat) :
    (packXKK op x kk).getLsbD k =
      if k < 8 then kk.getLsbD k
      else if k < 12 then (BitVec.ofFin x : Nibble).getLsbD (k - 8) else op.getLsbD (k - 12) := by
  have h := BitVec.getLsbD_append (x := op ++ (BitVec.ofFin x : Nibble)) (y := kk) (i := k)
  have h2 := BitVec.getLsbD_append (x := op) (y := (BitVec.ofFin x : Nibble)) (i := k - 8)
  rw [h2] at h
  refine h.trans ?_
  by_cases h8 : k < 8
  · simp [h8]
  · have e : k - 8 < 4 ↔ k < 12 := by omega
    have e2 : k - 8 - 4 = k - 12 := by omega
    simp [h8, e, e2]

theorem packXYN_getLsbD (op : Nibble) (x y : Reg) (n : Nibble) (k : Nat) :
    (packXYN op x y n).getLsbD k =
      if k < 4 then n.getLsbD k
      else if k < 8 then (BitVec.ofFin y : Nibble).getLsbD (k - 4)
      else if k < 12 then (BitVec.ofFin x : Nibble).getLsbD (k - 8) else op.getLsbD (k - 12) := by
  have h := BitVec.getLsbD_append (x := op ++ (BitVec.ofFin x : Nibble) ++ (BitVec.ofFin y : Nibble))
    (y := n) (i := k)
  have h2 := BitVec.getLsbD_append (x := op ++ (BitVec.ofFin x : Nibble))
    (y := (BitVec.ofFin y : Nibble)) (i := k - 4)
  have h3 := BitVec.getLsbD_append (x := op) (y := (BitVec.ofFin x : Nibble)) (i := k - 4 - 4)
  rw [h2, h3] at h
  refine h.trans ?_
  by_cases h4 : k < 4
  · simp [h4]
  · have e : k - 4 < 4 ↔ k < 8 := by omega
    by_cases h8 : k < 8
    · simp [h4, e, h8]
    · have e1 : k - 8 < 4 ↔ k < 12 := by omega
      have e2 : k - 8 - 4 = k - 12 := by omega
      have e3 : k - 4 - 4 = k - 8 := by omega
      simp [h4, e, h8, e1, e2, e3]

/-! ### The fields of a packed word are what was packed -/

section
variable (op : Nibble) (nnn : Addr) (x y : Reg) (kk : Byte) (n : Nibble)

@[simp] theorem fieldClass_packA : fieldClass (packA op nnn) = op := by
  apply BitVec.eq_of_toNat_eq; rw [fieldClass_toNat, packA_toNat]; omega

@[simp] theorem fieldNNN_packA : fieldNNN (packA op nnn) = nnn := by
  apply BitVec.eq_of_toNat_eq; rw [fieldNNN_toNat, packA_toNat]; omega

@[simp] theorem fieldKK_packA : fieldKK (packA op nnn) = nnn.extractLsb' 0 8 := by
  apply BitVec.eq_of_toNat_eq; rw [fieldKK_toNat, packA_toNat]; simp; omega

@[simp] theorem fieldClass_packXKK : fieldClass (packXKK op x kk) = op := by
  apply BitVec.eq_of_toNat_eq; rw [fieldClass_toNat, packXKK_toNat]; omega

@[simp] theorem fieldX_packXKK : fieldX (packXKK op x kk) = x := by
  apply Fin.ext; rw [fieldX_val, packXKK_toNat]; omega

@[simp] theorem fieldKK_packXKK : fieldKK (packXKK op x kk) = kk := by
  apply BitVec.eq_of_toNat_eq; rw [fieldKK_toNat, packXKK_toNat]; omega

@[simp] theorem fieldClass_packXYN : fieldClass (packXYN op x y n) = op := by
  apply BitVec.eq_of_toNat_eq; rw [fieldClass_toNat, packXYN_toNat]; omega

@[simp] theorem fieldX_packXYN : fieldX (packXYN op x y n) = x := by
  apply Fin.ext; rw [fieldX_val, packXYN_toNat]; omega

@[simp] theorem fieldY_packXYN : fieldY (packXYN op x y n) = y := by
  apply Fin.ext; rw [fieldY_val, packXYN_toNat]; omega

@[simp] theorem fieldN_packXYN : fieldN (packXYN op x y n) = n := by
  apply BitVec.eq_of_toNat_eq; rw [fieldN_toNat, packXYN_toNat]; omega

end

end Sys2Proof
end

