-- ==== Sys2Proof/Laws/Grid.lean ====
section
/-! SUPPORT. The laws of the display grid: what one flip and one plot do to every pixel. -/

namespace Sys2Proof.Machine

@[simp] theorem Grid.pixel_blank (row : Fin 32) (col : Fin 64) :
    Grid.pixel Grid.blank row col = false := by
  simp [Grid.pixel, Grid.blank]

/-- A flip inverts its pixel and leaves every other one. -/
@[simp] theorem Grid.pixel_flip (g : Grid) (row : Fin 32) (col : Fin 64) (r : Fin 32) (c : Fin 64) :
    (g.flip row col).pixel r c = (g.pixel r c ^^ decide (r = row ∧ c = col)) := by
  by_cases hr : r = row
  · subst hr
    by_cases hc : c = col
    · subst hc
      simp [Grid.flip, Grid.pixel]
    · have h1 : c.val ≠ col.val := fun h => hc (Fin.ext h)
      by_cases h2 : c.val < col.val
      · simp [Grid.flip, Grid.pixel, hc, h2]
      · have h3 : c.val - col.val ≠ 0 := by omega
        simp [Grid.flip, Grid.pixel, hc, h3]
  · have h1 : row.val ≠ r.val := fun h => hr (Fin.ext h.symm)
    simp [Grid.flip, Grid.pixel, hr, h1]

/-- Two grids with the same pixels are the same. -/
theorem Grid.ext_pixel {g h : Grid} (e : ∀ row col, g.pixel row col = h.pixel row col) : g = h := by
  apply Vector.ext
  intro r hr
  apply BitVec.eq_of_getLsbD_eq
  intro c hc
  exact e ⟨r, hr⟩ ⟨c, hc⟩

theorem Grid.plot_fst (st : Grid × Bool) (row : Fin 32) (col : Fin 64) :
    (Grid.plot st row col).1 = st.1.flip row col := rfl

theorem Grid.plot_snd (st : Grid × Bool) (row : Fin 32) (col : Fin 64) :
    (Grid.plot st row col).2 = (st.2 || st.1.pixel row col) := rfl

end Sys2Proof.Machine
end

