-- ==== Sys2Proof/Laws/Memory.lean ====
section
/-! SUPPORT. The laws of `MEM`: a read after a write, and the canonical form every operation keeps. -/

namespace Sys2Proof.Machine

/-! ### Reading -/

theorem Memory.read_forget_ne {m : Memory} {a b : Nat} (h : b ≠ a) :
    (m.forget a).read b = m.read b := by
  induction m with
  | nil => rfl
  | cons c m ih =>
    obtain ⟨d, y⟩ := c
    by_cases hd : d = a
    · subst hd
      simpa [Memory.forget, Memory.read, h] using ih
    · simp only [Memory.forget] at ih
      simp [Memory.forget, Memory.read, hd, ih]

theorem Memory.read_forget_self (m : Memory) (a : Nat) : (m.forget a).read a = resetByte a := by
  induction m with
  | nil => rfl
  | cons c m ih =>
    obtain ⟨d, y⟩ := c
    simp only [Memory.forget] at ih
    by_cases hd : d = a
    · subst hd; simpa [Memory.forget] using ih
    · simp [Memory.forget, Memory.read, hd, Ne.symm hd, ih]

/-- Reading where an entry was placed among entries for other addresses. -/
theorem Memory.read_place {m : Memory} {a : Nat} {y : Byte} (hm : ∀ c ∈ m, c.1 ≠ a) (b : Nat) :
    (Memory.place a y m).read b = if b = a then y else m.read b := by
  induction m with
  | nil => rfl
  | cons c m ih =>
    obtain ⟨d, z⟩ := c
    have hd : d ≠ a := hm (d, z) (by simp)
    have ih := ih (fun c hc => hm c (by simp [hc]))
    simp only [Memory.place]
    split
    · rfl
    · by_cases hb : b = d
      · subst hb; simp [Memory.read, hd]
      · simp [Memory.read, hb, ih]

theorem Memory.forget_ne {m : Memory} {a : Nat} : ∀ c ∈ m.forget a, c.1 ≠ a := by
  intro c hc
  simpa using (List.mem_filter.mp hc).2

/-- A read returns the last byte written there, and a write leaves every other byte alone
(20_memory.md R52). -/
@[simp] theorem Memory.read_write (m : Memory) (a : Nat) (y : Byte) (b : Nat) :
    (m.write a y).read b = if b = a then y else m.read b := by
  unfold Memory.write
  split
  · rename_i h
    by_cases hb : b = a
    · subst hb; simp [Memory.read_forget_self, h]
    · simp [Memory.read_forget_ne hb, hb]
  · rw [Memory.read_place Memory.forget_ne]
    by_cases hb : b = a
    · simp [hb]
    · simp [hb, Memory.read_forget_ne hb]

/-- A byte after a run of writes: the byte written there, or the old one. -/
@[simp] theorem Memory.read_writeBytes (ys : List Byte) (m : Memory) (a b : Nat) :
    (m.writeBytes a ys).read b =
      if a ≤ b ∧ b < a + ys.length then ys.getD (b - a) 0#8 else m.read b := by
  induction ys generalizing m a with
  | nil => simp [Memory.writeBytes]
  | cons y ys ih =>
    rw [Memory.writeBytes, ih, Memory.read_write]
    by_cases hb : b = a
    · subst hb; simp
    · simp only [hb, if_false, List.length_cons]
      by_cases h : a + 1 ≤ b ∧ b < a + 1 + ys.length
      · have h2 : a ≤ b ∧ b < a + (ys.length + 1) := by omega
        have h3 : b - a = (b - (a + 1)) + 1 := by omega
        rw [if_pos h, if_pos h2, h3, List.getD_cons_succ]
      · have h2 : ¬(a ≤ b ∧ b < a + (ys.length + 1)) := by omega
        rw [if_neg h, if_neg h2]

@[simp] theorem Memory.readBytes_length (m : Memory) (a n : Nat) : (m.readBytes a n).length = n := by
  simp [Memory.readBytes]

@[simp] theorem Memory.readBytes_getElem? (m : Memory) (a n k : Nat) :
    (m.readBytes a n)[k]? = if k < n then some (m.read (a + k)) else none := by
  by_cases h : k < n <;> simp [Memory.readBytes, h]

@[simp] theorem Memory.readBytes_getElem (m : Memory) (a n k : Nat)
    (h : k < (m.readBytes a n).length) : (m.readBytes a n)[k] = m.read (a + k) := by
  simp [Memory.readBytes]

/-! ### The canonical form -/

theorem Memory.wf_cons {a : Nat} {y : Byte} {m : Memory} :
    Memory.wf ((a, y) :: m) = true ↔
      a < memSize ∧ y ≠ resetByte a ∧ (∀ c ∈ m, a < c.1) ∧ m.wf = true := by
  simp [Memory.wf, and_assoc]

theorem Memory.wf_forget {m : Memory} (a : Nat) (h : m.wf = true) : (m.forget a).wf = true := by
  induction m with
  | nil => rfl
  | cons c m ih =>
    obtain ⟨d, y⟩ := c
    obtain ⟨h1, h2, h3, h4⟩ := Memory.wf_cons.mp h
    by_cases hd : d = a
    · subst hd; simpa [Memory.forget] using ih h4
    · have : ((d, y) :: m).filter (fun c => c.1 != a) = (d, y) :: Memory.forget m a := by
        simp [Memory.forget, hd]
      rw [Memory.forget, this]
      exact Memory.wf_cons.mpr ⟨h1, h2, fun c hc => h3 c (List.mem_of_mem_filter hc), ih h4⟩

theorem Memory.mem_place {a : Nat} {y : Byte} {m : Memory} {c : Host.Cell}
    (hc : c ∈ Memory.place a y m) : c = (a, y) ∨ c ∈ m := by
  induction m with
  | nil => simpa [Memory.place] using hc
  | cons d m ih =>
    simp only [Memory.place] at hc
    split at hc
    · simpa using hc
    · rcases List.mem_cons.mp hc with h | h
      · exact Or.inr (by simp [h])
      · exact (ih h).imp_right (fun h => by simp [h])

theorem Memory.wf_place {m : Memory} {a : Nat} {y : Byte} (ha : a < memSize) (hy : y ≠ resetByte a)
    (hm : ∀ c ∈ m, c.1 ≠ a) (h : m.wf = true) : (Memory.place a y m).wf = true := by
  induction m with
  | nil => exact Memory.wf_cons.mpr ⟨ha, hy, by simp, rfl⟩
  | cons c m ih =>
    obtain ⟨d, z⟩ := c
    obtain ⟨h1, h2, h3, h4⟩ := Memory.wf_cons.mp h
    have hd : d ≠ a := hm (d, z) (by simp)
    simp only [Memory.place]
    split
    · rename_i hlt
      have hlt : a < d := hlt
      refine Memory.wf_cons.mpr ⟨ha, hy, fun c hc => ?_, h⟩
      rcases List.mem_cons.mp hc with rfl | hc
      · exact hlt
      · exact hlt.trans (h3 c hc)
    · rename_i hlt
      have hlt : ¬a < d := hlt
      refine Memory.wf_cons.mpr ⟨h1, h2, fun c hc => ?_, ih (fun c hc => hm c (by simp [hc])) h4⟩
      rcases Memory.mem_place hc with rfl | hc
      · show d < a; omega
      · exact h3 c hc

/-- A write inside the address space keeps the canonical form. -/
theorem Memory.wf_write {m : Memory} {a : Nat} (y : Byte) (ha : a < memSize) (h : m.wf = true) :
    (m.write a y).wf = true := by
  unfold Memory.write
  split
  · exact Memory.wf_forget a h
  · rename_i hy
    exact Memory.wf_place ha hy Memory.forget_ne (Memory.wf_forget a h)

/-- A run of writes inside the address space keeps the canonical form. -/
theorem Memory.wf_writeBytes {ys : List Byte} {m : Memory} {a : Nat}
    (ha : ys = [] ∨ a + ys.length ≤ memSize) (h : m.wf = true) : (m.writeBytes a ys).wf = true := by
  induction ys generalizing m a with
  | nil => exact h
  | cons y ys ih =>
    have ha : a + (ys.length + 1) ≤ memSize := by simpa using ha
    exact ih (Or.inr (by omega)) (Memory.wf_write y (by omega) h)

/-- The memory of a font is in canonical form. -/
theorem Memory.wf_withFont (font : Vector Byte 80) : (Memory.withFont font).wf = true := by
  apply Memory.wf_writeBytes _ rfl
  right
  rw [Vector.length_toList]
  decide

@[simp] theorem Memory.drawReserved_false (m : Memory) (k : Nat) :
    m.drawReserved false k = m := rfl

/-- The free values of `RESET_ARBITRARY` keep the canonical form. -/
theorem Memory.wf_drawReserved {m : Memory} (arbitrary : Bool) (k : Nat) (h : m.wf = true) :
    (m.drawReserved arbitrary k).wf = true := by
  unfold Memory.drawReserved
  split
  · apply Memory.wf_writeBytes _ h
    right
    rw [List.length_map, List.length_range]
    decide
  · exact h

/-- A byte after the free values of `RESET_ARBITRARY` are written. -/
theorem Memory.read_drawReserved (m : Memory) (arbitrary : Bool) (k a : Nat) :
    (m.drawReserved arbitrary k).read a =
      if arbitrary = true ∧ 0x050 ≤ a ∧ a < 0x200 then Config.resetMem k a else m.read a := by
  cases arbitrary with
  | false => simp
  | true =>
    unfold Memory.drawReserved
    rw [if_pos rfl, Memory.read_writeBytes, List.length_map, List.length_range]
    by_cases h : 0x050 ≤ a ∧ a < 0x200
    · have h2 : reservedStart + (a - reservedStart) = a := Nat.add_sub_cancel' h.1
      have h3 : a - reservedStart < progStart - reservedStart := by
        simp only [reservedStart, progStart]; omega
      have h4 : reservedStart ≤ a ∧ a < reservedStart + (progStart - reservedStart) := by
        simp only [reservedStart, progStart]; omega
      simp [h, h2, h3, h4]
    · have h4 : ¬(reservedStart ≤ a ∧ a < reservedStart + (progStart - reservedStart)) := by
        simp only [reservedStart, progStart]; omega
      simp [h, h4]

/-- A byte of the memory of a font: the font below 0x050, 0 from there on. -/
theorem Memory.read_withFont (font : Vector Byte 80) (a : Nat) :
    (Memory.withFont font).read a = if h : a < 80 then font[a] else 0#8 := by
  unfold Memory.withFont
  rw [Memory.read_writeBytes]
  by_cases h : a < 80
  · simp [h]
  · have hl : Config.font.length = 80 := rfl
    have hr : resetByte a = 0#8 := by
      rw [resetByte, List.getD_eq_getElem?_getD, List.getElem?_eq_none (by omega)]
      rfl
    simp [h, Memory.read, hr]

/-- The default font needs no entry in memory. -/
theorem Memory.withFont_params : Memory.withFont Config.params.font = [] := by decide

end Sys2Proof.Machine
end

