-- ==== Sys2Proof/Laws/State.lean ====
section
/-! SUPPORT. What each field of the state is after each update: one lemma per field per update, so
that no proof unfolds a record update. -/

namespace Sys2Proof.Machine

variable (s : State)

/-- The parametrised reset at the values this hardware takes, whichever reset it is. -/
theorem State.resetWith_params (k : Nat) :
    State.resetWith Config.params k = { State.reset with draws := k } := by
  unfold State.resetWith State.reset
  rw [Memory.withFont_params]
  rfl

/-- Memory after a reset, for any values of the parameters. -/
theorem State.resetWith_mem (p : Params) (k : Nat) :
    (State.resetWith p k).mem = (Memory.withFont p.font).drawReserved p.resetArbitrary k := by
  rw [State.resetWith, State.resetFrom]

/-- The host's RESET leaves the state of the next reset from every state, but for the script. -/
theorem State.hostWith_reset (p : Params) :
    s.hostWith p .reset = { State.resetWith p (s.draws + 1) with script := s.script } := by
  rw [State.hostWith, State.hostReset]

/-- The host's LOAD does the load in a running machine and nothing in one that has ended. -/
theorem State.hostLoad_running (rom : Option (List Byte)) (h : s.status = .running) :
    s.hostLoad rom = s.loadRom rom := by rw [State.hostLoad, if_pos h]

theorem State.hostLoad_ended (rom : Option (List Byte)) (h : s.status ≠ .running) :
    s.hostLoad rom = s := by rw [State.hostLoad, if_neg h]

/-- The load of an image: a fatal error alone, or memory alone. -/
theorem State.loadRom_cases (rom : Option (List Byte)) :
    (∃ e, s.loadRom rom = s.raise e) ∨
      ∃ bytes, rom = some bytes ∧ bytes.length ≤ 3584 ∧
        s.loadRom rom = { s with mem := s.mem.writeBytes 0x200 bytes } := by
  cases rom with
  | none => exact Or.inl ⟨_, rfl⟩
  | some bytes =>
    by_cases h : bytes.length > romCapacity
    · exact Or.inl ⟨_, by rw [State.loadRom, if_pos h]⟩
    · exact Or.inr ⟨bytes, rfl, Nat.le_of_not_lt h, by rw [State.loadRom, if_neg h]; rfl⟩

/-! ### `State.setReg` -/

@[simp] theorem State.setReg_mem (r : Reg) (b : Byte) :
    (s.setReg r b).mem = s.mem := by rw [State.setReg]
@[simp] theorem State.setReg_v (r : Reg) (b : Byte) :
    (s.setReg r b).v = s.v.set r.val b := by rw [State.setReg]
@[simp] theorem State.setReg_i (r : Reg) (b : Byte) : (s.setReg r b).i = s.i := by rw [State.setReg]
@[simp] theorem State.setReg_pc (r : Reg) (b : Byte) :
    (s.setReg r b).pc = s.pc := by rw [State.setReg]
@[simp] theorem State.setReg_stack (r : Reg) (b : Byte) :
    (s.setReg r b).stack = s.stack := by rw [State.setReg]
@[simp] theorem State.setReg_sp (r : Reg) (b : Byte) :
    (s.setReg r b).sp = s.sp := by rw [State.setReg]
@[simp] theorem State.setReg_dt (r : Reg) (b : Byte) :
    (s.setReg r b).dt = s.dt := by rw [State.setReg]
@[simp] theorem State.setReg_st (r : Reg) (b : Byte) :
    (s.setReg r b).st = s.st := by rw [State.setReg]
@[simp] theorem State.setReg_op (r : Reg) (b : Byte) :
    (s.setReg r b).op = s.op := by rw [State.setReg]
@[simp] theorem State.setReg_status (r : Reg) (b : Byte) :
    (s.setReg r b).status = s.status := by rw [State.setReg]
@[simp] theorem State.setReg_fb (r : Reg) (b : Byte) :
    (s.setReg r b).fb = s.fb := by rw [State.setReg]
@[simp] theorem State.setReg_quit (r : Reg) (b : Byte) :
    (s.setReg r b).quit = s.quit := by rw [State.setReg]
@[simp] theorem State.setReg_calls (r : Reg) (b : Byte) :
    (s.setReg r b).calls = s.calls := by rw [State.setReg]
@[simp] theorem State.setReg_audio (r : Reg) (b : Byte) :
    (s.setReg r b).audio = s.audio := by rw [State.setReg]
@[simp] theorem State.setReg_script (r : Reg) (b : Byte) :
    (s.setReg r b).script = s.script := by rw [State.setReg]
@[simp] theorem State.setReg_draws (r : Reg) (b : Byte) :
    (s.setReg r b).draws = s.draws := by rw [State.setReg]

/-! ### `State.loadRegs` -/

@[simp] theorem State.loadRegs_mem (bytes : List Byte) :
    (s.loadRegs bytes).mem = s.mem := by rw [State.loadRegs]
@[simp] theorem State.loadRegs_v (bytes : List Byte) :
    (s.loadRegs bytes).v = Vector.ofFn (fun r => bytes.getD r.val s.v[r.val]) := by
      rw [State.loadRegs]
@[simp] theorem State.loadRegs_i (bytes : List Byte) :
    (s.loadRegs bytes).i = s.i := by rw [State.loadRegs]
@[simp] theorem State.loadRegs_pc (bytes : List Byte) :
    (s.loadRegs bytes).pc = s.pc := by rw [State.loadRegs]
@[simp] theorem State.loadRegs_stack (bytes : List Byte) :
    (s.loadRegs bytes).stack = s.stack := by rw [State.loadRegs]
@[simp] theorem State.loadRegs_sp (bytes : List Byte) :
    (s.loadRegs bytes).sp = s.sp := by rw [State.loadRegs]
@[simp] theorem State.loadRegs_dt (bytes : List Byte) :
    (s.loadRegs bytes).dt = s.dt := by rw [State.loadRegs]
@[simp] theorem State.loadRegs_st (bytes : List Byte) :
    (s.loadRegs bytes).st = s.st := by rw [State.loadRegs]
@[simp] theorem State.loadRegs_op (bytes : List Byte) :
    (s.loadRegs bytes).op = s.op := by rw [State.loadRegs]
@[simp] theorem State.loadRegs_status (bytes : List Byte) :
    (s.loadRegs bytes).status = s.status := by rw [State.loadRegs]
@[simp] theorem State.loadRegs_fb (bytes : List Byte) :
    (s.loadRegs bytes).fb = s.fb := by rw [State.loadRegs]
@[simp] theorem State.loadRegs_quit (bytes : List Byte) :
    (s.loadRegs bytes).quit = s.quit := by rw [State.loadRegs]
@[simp] theorem State.loadRegs_calls (bytes : List Byte) :
    (s.loadRegs bytes).calls = s.calls := by rw [State.loadRegs]
@[simp] theorem State.loadRegs_audio (bytes : List Byte) :
    (s.loadRegs bytes).audio = s.audio := by rw [State.loadRegs]
@[simp] theorem State.loadRegs_script (bytes : List Byte) :
    (s.loadRegs bytes).script = s.script := by rw [State.loadRegs]
@[simp] theorem State.loadRegs_draws (bytes : List Byte) :
    (s.loadRegs bytes).draws = s.draws := by rw [State.loadRegs]

/-! ### `State.setPc` -/

@[simp] theorem State.setPc_mem (w : Word) : (s.setPc w).mem = s.mem := rfl
@[simp] theorem State.setPc_v (w : Word) : (s.setPc w).v = s.v := rfl
@[simp] theorem State.setPc_i (w : Word) : (s.setPc w).i = s.i := rfl
@[simp] theorem State.setPc_pc (w : Word) : (s.setPc w).pc = w := rfl
@[simp] theorem State.setPc_stack (w : Word) : (s.setPc w).stack = s.stack := rfl
@[simp] theorem State.setPc_sp (w : Word) : (s.setPc w).sp = s.sp := rfl
@[simp] theorem State.setPc_dt (w : Word) : (s.setPc w).dt = s.dt := rfl
@[simp] theorem State.setPc_st (w : Word) : (s.setPc w).st = s.st := rfl
@[simp] theorem State.setPc_op (w : Word) : (s.setPc w).op = s.op := rfl
@[simp] theorem State.setPc_status (w : Word) : (s.setPc w).status = s.status := rfl
@[simp] theorem State.setPc_fb (w : Word) : (s.setPc w).fb = s.fb := rfl
@[simp] theorem State.setPc_quit (w : Word) : (s.setPc w).quit = s.quit := rfl
@[simp] theorem State.setPc_calls (w : Word) : (s.setPc w).calls = s.calls := rfl
@[simp] theorem State.setPc_audio (w : Word) : (s.setPc w).audio = s.audio := rfl
@[simp] theorem State.setPc_script (w : Word) : (s.setPc w).script = s.script := rfl
@[simp] theorem State.setPc_draws (w : Word) : (s.setPc w).draws = s.draws := rfl

/-! ### `State.setIndex` -/

@[simp] theorem State.setIndex_mem (w : Word) : (s.setIndex w).mem = s.mem := rfl
@[simp] theorem State.setIndex_v (w : Word) : (s.setIndex w).v = s.v := rfl
@[simp] theorem State.setIndex_i (w : Word) : (s.setIndex w).i = w := rfl
@[simp] theorem State.setIndex_pc (w : Word) : (s.setIndex w).pc = s.pc := rfl
@[simp] theorem State.setIndex_stack (w : Word) : (s.setIndex w).stack = s.stack := rfl
@[simp] theorem State.setIndex_sp (w : Word) : (s.setIndex w).sp = s.sp := rfl
@[simp] theorem State.setIndex_dt (w : Word) : (s.setIndex w).dt = s.dt := rfl
@[simp] theorem State.setIndex_st (w : Word) : (s.setIndex w).st = s.st := rfl
@[simp] theorem State.setIndex_op (w : Word) : (s.setIndex w).op = s.op := rfl
@[simp] theorem State.setIndex_status (w : Word) : (s.setIndex w).status = s.status := rfl
@[simp] theorem State.setIndex_fb (w : Word) : (s.setIndex w).fb = s.fb := rfl
@[simp] theorem State.setIndex_quit (w : Word) : (s.setIndex w).quit = s.quit := rfl
@[simp] theorem State.setIndex_calls (w : Word) : (s.setIndex w).calls = s.calls := rfl
@[simp] theorem State.setIndex_audio (w : Word) : (s.setIndex w).audio = s.audio := rfl
@[simp] theorem State.setIndex_script (w : Word) : (s.setIndex w).script = s.script := rfl
@[simp] theorem State.setIndex_draws (w : Word) : (s.setIndex w).draws = s.draws := rfl

/-! ### `State.raise` -/

@[simp] theorem State.raise_mem (e : FatalError) : (s.raise e).mem = s.mem := rfl
@[simp] theorem State.raise_v (e : FatalError) : (s.raise e).v = s.v := rfl
@[simp] theorem State.raise_i (e : FatalError) : (s.raise e).i = s.i := rfl
@[simp] theorem State.raise_pc (e : FatalError) : (s.raise e).pc = s.pc := rfl
@[simp] theorem State.raise_stack (e : FatalError) : (s.raise e).stack = s.stack := rfl
@[simp] theorem State.raise_sp (e : FatalError) : (s.raise e).sp = s.sp := rfl
@[simp] theorem State.raise_dt (e : FatalError) : (s.raise e).dt = s.dt := rfl
@[simp] theorem State.raise_st (e : FatalError) : (s.raise e).st = s.st := rfl
@[simp] theorem State.raise_op (e : FatalError) : (s.raise e).op = s.op := rfl
@[simp] theorem State.raise_status (e : FatalError) : (s.raise e).status = .halted e := rfl
@[simp] theorem State.raise_fb (e : FatalError) : (s.raise e).fb = s.fb := rfl
@[simp] theorem State.raise_quit (e : FatalError) : (s.raise e).quit = s.quit := rfl
@[simp] theorem State.raise_calls (e : FatalError) : (s.raise e).calls = s.calls := rfl
@[simp] theorem State.raise_audio (e : FatalError) : (s.raise e).audio = s.audio := rfl
@[simp] theorem State.raise_script (e : FatalError) : (s.raise e).script = s.script := rfl
@[simp] theorem State.raise_draws (e : FatalError) : (s.raise e).draws = s.draws := rfl

/-! ### `State.clearDisplay` -/

@[simp] theorem State.clearDisplay_mem : s.clearDisplay.mem = s.mem := rfl
@[simp] theorem State.clearDisplay_v : s.clearDisplay.v = s.v := rfl
@[simp] theorem State.clearDisplay_i : s.clearDisplay.i = s.i := rfl
@[simp] theorem State.clearDisplay_pc : s.clearDisplay.pc = s.pc := rfl
@[simp] theorem State.clearDisplay_stack : s.clearDisplay.stack = s.stack := rfl
@[simp] theorem State.clearDisplay_sp : s.clearDisplay.sp = s.sp := rfl
@[simp] theorem State.clearDisplay_dt : s.clearDisplay.dt = s.dt := rfl
@[simp] theorem State.clearDisplay_st : s.clearDisplay.st = s.st := rfl
@[simp] theorem State.clearDisplay_op : s.clearDisplay.op = s.op := rfl
@[simp] theorem State.clearDisplay_status : s.clearDisplay.status = s.status := rfl
@[simp] theorem State.clearDisplay_fb : s.clearDisplay.fb = Grid.blank := rfl
@[simp] theorem State.clearDisplay_quit : s.clearDisplay.quit = s.quit := rfl
@[simp] theorem State.clearDisplay_calls : s.clearDisplay.calls = s.calls ++ [.clear] := rfl
@[simp] theorem State.clearDisplay_audio : s.clearDisplay.audio = s.audio := rfl
@[simp] theorem State.clearDisplay_script : s.clearDisplay.script = s.script := rfl
@[simp] theorem State.clearDisplay_draws : s.clearDisplay.draws = s.draws := rfl

/-! ### `State.draw` -/

@[simp] theorem State.draw_mem (rows : List Byte) (cx cy : Byte) :
    (s.draw rows cx cy).mem = s.mem := by rw [State.draw]
@[simp] theorem State.draw_v (rows : List Byte) (cx cy : Byte) :
    (s.draw rows cx cy).v = s.v.set vf.val (flagByte (s.fb.blit rows cx cy).2) := by rw [State.draw]
@[simp] theorem State.draw_i (rows : List Byte) (cx cy : Byte) :
    (s.draw rows cx cy).i = s.i := by rw [State.draw]
@[simp] theorem State.draw_pc (rows : List Byte) (cx cy : Byte) :
    (s.draw rows cx cy).pc = s.pc := by rw [State.draw]
@[simp] theorem State.draw_stack (rows : List Byte) (cx cy : Byte) :
    (s.draw rows cx cy).stack = s.stack := by rw [State.draw]
@[simp] theorem State.draw_sp (rows : List Byte) (cx cy : Byte) :
    (s.draw rows cx cy).sp = s.sp := by rw [State.draw]
@[simp] theorem State.draw_dt (rows : List Byte) (cx cy : Byte) :
    (s.draw rows cx cy).dt = s.dt := by rw [State.draw]
@[simp] theorem State.draw_st (rows : List Byte) (cx cy : Byte) :
    (s.draw rows cx cy).st = s.st := by rw [State.draw]
@[simp] theorem State.draw_op (rows : List Byte) (cx cy : Byte) :
    (s.draw rows cx cy).op = s.op := by rw [State.draw]
@[simp] theorem State.draw_status (rows : List Byte) (cx cy : Byte) :
    (s.draw rows cx cy).status = s.status := by rw [State.draw]
@[simp] theorem State.draw_fb (rows : List Byte) (cx cy : Byte) :
    (s.draw rows cx cy).fb = (s.fb.blit rows cx cy).1 := by rw [State.draw]
@[simp] theorem State.draw_quit (rows : List Byte) (cx cy : Byte) :
    (s.draw rows cx cy).quit = s.quit := by rw [State.draw]
@[simp] theorem State.draw_calls (rows : List Byte) (cx cy : Byte) :
    (s.draw rows cx cy).calls = s.calls ++ [.blit rows cx cy, .present] := by rw [State.draw]
@[simp] theorem State.draw_audio (rows : List Byte) (cx cy : Byte) :
    (s.draw rows cx cy).audio = s.audio := by rw [State.draw]
@[simp] theorem State.draw_script (rows : List Byte) (cx cy : Byte) :
    (s.draw rows cx cy).script = s.script := by rw [State.draw]
@[simp] theorem State.draw_draws (rows : List Byte) (cx cy : Byte) :
    (s.draw rows cx cy).draws = s.draws := by rw [State.draw]

/-! ### `State.armDt` -/

@[simp] theorem State.armDt_mem (b : Byte) : (s.armDt b).mem = s.mem := rfl
@[simp] theorem State.armDt_v (b : Byte) : (s.armDt b).v = s.v := rfl
@[simp] theorem State.armDt_i (b : Byte) : (s.armDt b).i = s.i := rfl
@[simp] theorem State.armDt_pc (b : Byte) : (s.armDt b).pc = s.pc := rfl
@[simp] theorem State.armDt_stack (b : Byte) : (s.armDt b).stack = s.stack := rfl
@[simp] theorem State.armDt_sp (b : Byte) : (s.armDt b).sp = s.sp := rfl
@[simp] theorem State.armDt_dt (b : Byte) : (s.armDt b).dt = b := rfl
@[simp] theorem State.armDt_st (b : Byte) : (s.armDt b).st = s.st := rfl
@[simp] theorem State.armDt_op (b : Byte) : (s.armDt b).op = s.op := rfl
@[simp] theorem State.armDt_status (b : Byte) : (s.armDt b).status = s.status := rfl
@[simp] theorem State.armDt_fb (b : Byte) : (s.armDt b).fb = s.fb := rfl
@[simp] theorem State.armDt_quit (b : Byte) : (s.armDt b).quit = s.quit := rfl
@[simp] theorem State.armDt_calls (b : Byte) : (s.armDt b).calls = s.calls := rfl
@[simp] theorem State.armDt_audio (b : Byte) : (s.armDt b).audio = s.audio := rfl
@[simp] theorem State.armDt_script (b : Byte) : (s.armDt b).script = s.script := rfl
@[simp] theorem State.armDt_draws (b : Byte) : (s.armDt b).draws = s.draws := rfl

/-! ### `State.armSt` -/

@[simp] theorem State.armSt_mem (b : Byte) : (s.armSt b).mem = s.mem := rfl
@[simp] theorem State.armSt_v (b : Byte) : (s.armSt b).v = s.v := rfl
@[simp] theorem State.armSt_i (b : Byte) : (s.armSt b).i = s.i := rfl
@[simp] theorem State.armSt_pc (b : Byte) : (s.armSt b).pc = s.pc := rfl
@[simp] theorem State.armSt_stack (b : Byte) : (s.armSt b).stack = s.stack := rfl
@[simp] theorem State.armSt_sp (b : Byte) : (s.armSt b).sp = s.sp := rfl
@[simp] theorem State.armSt_dt (b : Byte) : (s.armSt b).dt = s.dt := rfl
@[simp] theorem State.armSt_st (b : Byte) : (s.armSt b).st = b := rfl
@[simp] theorem State.armSt_op (b : Byte) : (s.armSt b).op = s.op := rfl
@[simp] theorem State.armSt_status (b : Byte) : (s.armSt b).status = s.status := rfl
@[simp] theorem State.armSt_fb (b : Byte) : (s.armSt b).fb = s.fb := rfl
@[simp] theorem State.armSt_quit (b : Byte) : (s.armSt b).quit = s.quit := rfl
@[simp] theorem State.armSt_calls (b : Byte) : (s.armSt b).calls = s.calls := rfl
@[simp] theorem State.armSt_audio (b : Byte) : (s.armSt b).audio = s.audio := rfl
@[simp] theorem State.armSt_script (b : Byte) : (s.armSt b).script = s.script := rfl
@[simp] theorem State.armSt_draws (b : Byte) : (s.armSt b).draws = s.draws := rfl

/-! ### `State.nextInput` -/

@[simp] theorem State.nextInput_mem : s.nextInput.mem = s.mem := rfl
@[simp] theorem State.nextInput_v : s.nextInput.v = s.v := rfl
@[simp] theorem State.nextInput_i : s.nextInput.i = s.i := rfl
@[simp] theorem State.nextInput_pc : s.nextInput.pc = s.pc := rfl
@[simp] theorem State.nextInput_stack : s.nextInput.stack = s.stack := rfl
@[simp] theorem State.nextInput_sp : s.nextInput.sp = s.sp := rfl
@[simp] theorem State.nextInput_dt : s.nextInput.dt = s.dt := rfl
@[simp] theorem State.nextInput_st : s.nextInput.st = s.st := rfl
@[simp] theorem State.nextInput_op : s.nextInput.op = s.op := rfl
@[simp] theorem State.nextInput_status : s.nextInput.status = s.status := rfl
@[simp] theorem State.nextInput_fb : s.nextInput.fb = s.fb := rfl
@[simp] theorem State.nextInput_quit : s.nextInput.quit = s.quit := rfl
@[simp] theorem State.nextInput_calls : s.nextInput.calls = s.calls := rfl
@[simp] theorem State.nextInput_audio : s.nextInput.audio = s.audio := rfl
@[simp] theorem State.nextInput_script : s.nextInput.script = s.script.tail := rfl
@[simp] theorem State.nextInput_draws : s.nextInput.draws = s.draws + 1 := rfl

/-! ### `State.setOp` -/

@[simp] theorem State.setOp_mem (w : Word) : (s.setOp w).mem = s.mem := rfl
@[simp] theorem State.setOp_v (w : Word) : (s.setOp w).v = s.v := rfl
@[simp] theorem State.setOp_i (w : Word) : (s.setOp w).i = s.i := rfl
@[simp] theorem State.setOp_pc (w : Word) : (s.setOp w).pc = s.pc := rfl
@[simp] theorem State.setOp_stack (w : Word) : (s.setOp w).stack = s.stack := rfl
@[simp] theorem State.setOp_sp (w : Word) : (s.setOp w).sp = s.sp := rfl
@[simp] theorem State.setOp_dt (w : Word) : (s.setOp w).dt = s.dt := rfl
@[simp] theorem State.setOp_st (w : Word) : (s.setOp w).st = s.st := rfl
@[simp] theorem State.setOp_op (w : Word) : (s.setOp w).op = w := rfl
@[simp] theorem State.setOp_status (w : Word) : (s.setOp w).status = s.status := rfl
@[simp] theorem State.setOp_fb (w : Word) : (s.setOp w).fb = s.fb := rfl
@[simp] theorem State.setOp_quit (w : Word) : (s.setOp w).quit = s.quit := rfl
@[simp] theorem State.setOp_calls (w : Word) : (s.setOp w).calls = s.calls := rfl
@[simp] theorem State.setOp_audio (w : Word) : (s.setOp w).audio = s.audio := rfl
@[simp] theorem State.setOp_script (w : Word) : (s.setOp w).script = s.script := rfl
@[simp] theorem State.setOp_draws (w : Word) : (s.setOp w).draws = s.draws := rfl

/-! ### `State.beginStep` -/

@[simp] theorem State.beginStep_mem : s.beginStep.mem = s.mem := rfl
@[simp] theorem State.beginStep_v : s.beginStep.v = s.v := rfl
@[simp] theorem State.beginStep_i : s.beginStep.i = s.i := rfl
@[simp] theorem State.beginStep_pc : s.beginStep.pc = s.pc := rfl
@[simp] theorem State.beginStep_stack : s.beginStep.stack = s.stack := rfl
@[simp] theorem State.beginStep_sp : s.beginStep.sp = s.sp := rfl
@[simp] theorem State.beginStep_dt : s.beginStep.dt = s.dt := rfl
@[simp] theorem State.beginStep_st : s.beginStep.st = s.st := rfl
@[simp] theorem State.beginStep_op : s.beginStep.op = s.op := rfl
@[simp] theorem State.beginStep_status : s.beginStep.status = s.status := rfl
@[simp] theorem State.beginStep_fb : s.beginStep.fb = s.fb := rfl
@[simp] theorem State.beginStep_quit : s.beginStep.quit = s.quit := rfl
@[simp] theorem State.beginStep_calls : s.beginStep.calls = [] := rfl
@[simp] theorem State.beginStep_audio : s.beginStep.audio = s.audio := rfl
@[simp] theorem State.beginStep_script : s.beginStep.script = s.script := rfl
@[simp] theorem State.beginStep_draws : s.beginStep.draws = s.draws := rfl

/-! ### `State.stop` -/

@[simp] theorem State.stop_mem : s.stop.mem = s.mem := rfl
@[simp] theorem State.stop_v : s.stop.v = s.v := rfl
@[simp] theorem State.stop_i : s.stop.i = s.i := rfl
@[simp] theorem State.stop_pc : s.stop.pc = s.pc := rfl
@[simp] theorem State.stop_stack : s.stop.stack = s.stack := rfl
@[simp] theorem State.stop_sp : s.stop.sp = s.sp := rfl
@[simp] theorem State.stop_dt : s.stop.dt = s.dt := rfl
@[simp] theorem State.stop_st : s.stop.st = s.st := rfl
@[simp] theorem State.stop_op : s.stop.op = s.op := rfl
@[simp] theorem State.stop_status : s.stop.status = .stopped := rfl
@[simp] theorem State.stop_fb : s.stop.fb = s.fb := rfl
@[simp] theorem State.stop_quit : s.stop.quit = s.quit := rfl
@[simp] theorem State.stop_calls : s.stop.calls = s.calls := rfl
@[simp] theorem State.stop_audio : s.stop.audio = s.audio := rfl
@[simp] theorem State.stop_script : s.stop.script = s.script := rfl
@[simp] theorem State.stop_draws : s.stop.draws = s.draws := rfl

/-! ### `State.reportAudio` -/

@[simp] theorem State.reportAudio_mem : s.reportAudio.mem = s.mem := rfl
@[simp] theorem State.reportAudio_v : s.reportAudio.v = s.v := rfl
@[simp] theorem State.reportAudio_i : s.reportAudio.i = s.i := rfl
@[simp] theorem State.reportAudio_pc : s.reportAudio.pc = s.pc := rfl
@[simp] theorem State.reportAudio_stack : s.reportAudio.stack = s.stack := rfl
@[simp] theorem State.reportAudio_sp : s.reportAudio.sp = s.sp := rfl
@[simp] theorem State.reportAudio_dt : s.reportAudio.dt = s.dt := rfl
@[simp] theorem State.reportAudio_st : s.reportAudio.st = s.st := rfl
@[simp] theorem State.reportAudio_op : s.reportAudio.op = s.op := rfl
@[simp] theorem State.reportAudio_status : s.reportAudio.status = s.status := rfl
@[simp] theorem State.reportAudio_fb : s.reportAudio.fb = s.fb := rfl
@[simp] theorem State.reportAudio_quit : s.reportAudio.quit = s.quit := rfl
@[simp] theorem State.reportAudio_calls : s.reportAudio.calls = s.calls := rfl
@[simp] theorem State.reportAudio_audio : s.reportAudio.audio = s.audioOn := rfl
@[simp] theorem State.reportAudio_script : s.reportAudio.script = s.script := rfl
@[simp] theorem State.reportAudio_draws : s.reportAudio.draws = s.draws := rfl

/-! ### The program counter -/

@[simp] theorem State.advance_eq : s.advance = s.setPc (s.pc + 2#16) := rfl

@[simp] theorem State.skipIf_eq (c : Bool) :
    s.skipIf c = s.setPc (if c then s.pc + 4#16 else s.pc + 2#16) := rfl

@[simp] theorem State.setResultFlag_eq (x : Reg) (b : Byte) (c : Bool) :
    s.setResultFlag x b c = (s.setReg x b).setReg vf (flagByte c) := rfl

/-! ### `State.ticksDt` and `State.ticksSt`: a running machine's timers, and nothing else -/

theorem State.ticksDt_eq (n : Nat) :
    s.ticksDt n = { s with dt := if s.status = .running then countdown n s.dt else s.dt } := by
  unfold State.ticksDt; split <;> rfl

theorem State.ticksSt_eq (n : Nat) :
    s.ticksSt n = { s with st := if s.status = .running then countdown n s.st else s.st } := by
  unfold State.ticksSt; split <;> rfl

/-- What falls between two steps, field by field (60_exceptions.md R150 to R152). -/
theorem State.betweenSteps_eq :
    s.betweenSteps = { s with
      dt := if s.status = .running then countdown s.input.dtTicks s.dt else s.dt
      st := if s.status = .running then countdown s.input.stTicks s.st else s.st
      script := s.script.tail
      draws := s.draws + 1 } := by
  simp only [State.betweenSteps, State.ticksDt_eq, State.ticksSt_eq, State.nextInput]

@[simp] theorem State.betweenSteps_mem : s.betweenSteps.mem = s.mem := by
  rw [State.betweenSteps_eq]
@[simp] theorem State.betweenSteps_v : s.betweenSteps.v = s.v := by
  rw [State.betweenSteps_eq]
@[simp] theorem State.betweenSteps_i : s.betweenSteps.i = s.i := by
  rw [State.betweenSteps_eq]
@[simp] theorem State.betweenSteps_pc : s.betweenSteps.pc = s.pc := by
  rw [State.betweenSteps_eq]
@[simp] theorem State.betweenSteps_stack : s.betweenSteps.stack = s.stack := by
  rw [State.betweenSteps_eq]
@[simp] theorem State.betweenSteps_sp : s.betweenSteps.sp = s.sp := by
  rw [State.betweenSteps_eq]
@[simp] theorem State.betweenSteps_dt : s.betweenSteps.dt =
    if s.status = .running then countdown s.input.dtTicks s.dt else s.dt := by
  rw [State.betweenSteps_eq]
@[simp] theorem State.betweenSteps_st : s.betweenSteps.st =
    if s.status = .running then countdown s.input.stTicks s.st else s.st := by
  rw [State.betweenSteps_eq]
@[simp] theorem State.betweenSteps_op : s.betweenSteps.op = s.op := by
  rw [State.betweenSteps_eq]
@[simp] theorem State.betweenSteps_status : s.betweenSteps.status = s.status := by
  rw [State.betweenSteps_eq]
@[simp] theorem State.betweenSteps_fb : s.betweenSteps.fb = s.fb := by
  rw [State.betweenSteps_eq]
@[simp] theorem State.betweenSteps_quit : s.betweenSteps.quit = s.quit := by
  rw [State.betweenSteps_eq]
@[simp] theorem State.betweenSteps_calls : s.betweenSteps.calls = s.calls := by
  rw [State.betweenSteps_eq]
@[simp] theorem State.betweenSteps_audio : s.betweenSteps.audio = s.audio := by
  rw [State.betweenSteps_eq]
@[simp] theorem State.betweenSteps_script : s.betweenSteps.script = s.script.tail := by
  rw [State.betweenSteps_eq]
@[simp] theorem State.betweenSteps_draws : s.betweenSteps.draws = s.draws + 1 := by
  rw [State.betweenSteps_eq]

/-! ### Reading a register after an update -/

/-- Two states with the same registers read the same. -/
theorem State.reg_congr {s t : State} (h : t.v = s.v) (r : Reg) : t.reg r = s.reg r := by
  simp [State.reg, h]

/-- A register after a register write (10_state.md R21). -/
@[simp] theorem State.reg_setReg (x : Reg) (b : Byte) (r : Reg) :
    (s.setReg x b).reg r = if r = x then b else s.reg r := by
  by_cases h : r = x
  · subst h; simp [State.reg]
  · have : x.val ≠ r.val := fun e => h (Fin.ext e.symm)
    simp [State.reg, h, this]

/-- A register after a block load: the ones the bytes reach take them, the others keep. -/
@[simp] theorem State.reg_loadRegs (bytes : List Byte) (r : Reg) :
    (s.loadRegs bytes).reg r = bytes.getD r.val (s.reg r) := by
  simp [State.reg]

/-- A register after a draw: `VF` holds the collision, the others keep. -/
@[simp] theorem State.reg_draw (rows : List Byte) (cx cy : Byte) (r : Reg) :
    (s.draw rows cx cy).reg r =
      if r = vf then flagByte (s.fb.blit rows cx cy).2 else s.reg r :=
  (State.reg_congr (State.draw_v s rows cx cy) r).trans
    (State.reg_setReg s vf (flagByte (s.fb.blit rows cx cy).2) r)

@[simp] theorem State.reg_setPc (w : Word) (r : Reg) : (s.setPc w).reg r = s.reg r := rfl
@[simp] theorem State.reg_setIndex (w : Word) (r : Reg) : (s.setIndex w).reg r = s.reg r := rfl
@[simp] theorem State.reg_raise (e : FatalError) (r : Reg) : (s.raise e).reg r = s.reg r := rfl
@[simp] theorem State.reg_clearDisplay (r : Reg) : s.clearDisplay.reg r = s.reg r := rfl
@[simp] theorem State.reg_armDt (b : Byte) (r : Reg) : (s.armDt b).reg r = s.reg r := rfl
@[simp] theorem State.reg_armSt (b : Byte) (r : Reg) : (s.armSt b).reg r = s.reg r := rfl
@[simp] theorem State.reg_nextInput (r : Reg) : s.nextInput.reg r = s.reg r := rfl
@[simp] theorem State.reg_setOp (w : Word) (r : Reg) : (s.setOp w).reg r = s.reg r := rfl
@[simp] theorem State.reg_beginStep (r : Reg) : s.beginStep.reg r = s.reg r := rfl
@[simp] theorem State.reg_stop (r : Reg) : s.stop.reg r = s.reg r := rfl
@[simp] theorem State.reg_reportAudio (r : Reg) : s.reportAudio.reg r = s.reg r := rfl
@[simp] theorem State.reg_betweenSteps (r : Reg) : s.betweenSteps.reg r = s.reg r :=
  State.reg_congr s.betweenSteps_v r

/-! ### The inputs of the step -/

@[simp] theorem State.input_setReg (r : Reg) (b : Byte) :
    (s.setReg r b).input = s.input := by rw [State.setReg]; rfl
@[simp] theorem State.input_loadRegs (bytes : List Byte) :
    (s.loadRegs bytes).input = s.input := by rw [State.loadRegs]; rfl
@[simp] theorem State.input_setPc (w : Word) : (s.setPc w).input = s.input := rfl
@[simp] theorem State.input_setIndex (w : Word) : (s.setIndex w).input = s.input := rfl
@[simp] theorem State.input_raise (e : FatalError) : (s.raise e).input = s.input := rfl
@[simp] theorem State.input_clearDisplay : s.clearDisplay.input = s.input := rfl
@[simp] theorem State.input_draw (rows : List Byte) (cx cy : Byte) :
    (s.draw rows cx cy).input = s.input := by rw [State.draw]; rfl
@[simp] theorem State.input_armDt (b : Byte) : (s.armDt b).input = s.input := rfl
@[simp] theorem State.input_armSt (b : Byte) : (s.armSt b).input = s.input := rfl
@[simp] theorem State.input_setOp (w : Word) : (s.setOp w).input = s.input := rfl
@[simp] theorem State.input_beginStep : s.beginStep.input = s.input := rfl
@[simp] theorem State.input_stop : s.stop.input = s.input := rfl
@[simp] theorem State.input_reportAudio : s.reportAudio.input = s.input := rfl

/-! ### `AUDIO_ON`: a function of `ST` alone -/

theorem State.audioOn_congr {s t : State} (h : t.st = s.st) : t.audioOn = s.audioOn := by
  rw [State.audioOn, State.audioOn, h]

@[simp] theorem State.audioOn_setReg (r : Reg) (b : Byte) :
    (s.setReg r b).audioOn = s.audioOn :=
  State.audioOn_congr (State.setReg_st s r b)
@[simp] theorem State.audioOn_loadRegs (bytes : List Byte) :
    (s.loadRegs bytes).audioOn = s.audioOn :=
  State.audioOn_congr (State.loadRegs_st s bytes)
@[simp] theorem State.audioOn_setPc (w : Word) : (s.setPc w).audioOn = s.audioOn :=
  State.audioOn_congr (State.setPc_st s w)
@[simp] theorem State.audioOn_setIndex (w : Word) :
    (s.setIndex w).audioOn = s.audioOn :=
  State.audioOn_congr (State.setIndex_st s w)
@[simp] theorem State.audioOn_raise (e : FatalError) :
    (s.raise e).audioOn = s.audioOn :=
  State.audioOn_congr (State.raise_st s e)
@[simp] theorem State.audioOn_clearDisplay : s.clearDisplay.audioOn = s.audioOn :=
  State.audioOn_congr (State.clearDisplay_st s)
@[simp] theorem State.audioOn_draw (rows : List Byte) (cx cy : Byte) :
    (s.draw rows cx cy).audioOn = s.audioOn :=
  State.audioOn_congr (State.draw_st s rows cx cy)
@[simp] theorem State.audioOn_armDt (b : Byte) : (s.armDt b).audioOn = s.audioOn :=
  State.audioOn_congr (State.armDt_st s b)
@[simp] theorem State.audioOn_nextInput : s.nextInput.audioOn = s.audioOn :=
  State.audioOn_congr (State.nextInput_st s)
@[simp] theorem State.audioOn_setOp (w : Word) : (s.setOp w).audioOn = s.audioOn :=
  State.audioOn_congr (State.setOp_st s w)
@[simp] theorem State.audioOn_beginStep : s.beginStep.audioOn = s.audioOn :=
  State.audioOn_congr (State.beginStep_st s)
@[simp] theorem State.audioOn_stop : s.stop.audioOn = s.audioOn :=
  State.audioOn_congr (State.stop_st s)
@[simp] theorem State.audioOn_reportAudio : s.reportAudio.audioOn = s.audioOn :=
  State.audioOn_congr (State.reportAudio_st s)

end Sys2Proof.Machine
end

