-- ==== Sys2Proof/Laws/Ops.lean ====
section
/-! SUPPORT. What each shared operation can answer, said once per operation. -/

namespace Sys2Proof.Machine

/-! ### Ending an instruction that may raise -/

@[simp] theorem State.orRaise_ok (s t : State) : s.orRaise (.ok t) = .next t := rfl

@[simp] theorem State.orRaise_error (s : State) (e : FatalError) :
    s.orRaise (.error e) = .next (s.raise e) := rfl

@[simp] theorem except_map_ok {α β : Type} (f : α → β) (a : α) :
    Except.map f (.ok a : Except FatalError α) = .ok (f a) := rfl

@[simp] theorem except_map_error {α β : Type} (f : α → β) (e : FatalError) :
    Except.map f (.error e : Except FatalError α) = .error e := rfl

/-- An instruction that may raise always answers a next state: the result, or the error taken. -/
theorem State.orRaise_cases (s : State) (r : Except FatalError State) :
    (∃ t, r = .ok t ∧ s.orRaise r = .next t) ∨
      (∃ e, r = .error e ∧ s.orRaise r = .next (s.raise e)) := by
  cases r with
  | ok t => exact Or.inl ⟨t, rfl, rfl⟩
  | error e => exact Or.inr ⟨e, rfl, rfl⟩

/-! ### Memory accesses -/

theorem inBounds_iff (a : Word) (n : Nat) :
    inBounds a n = true ↔ n = 0 ∨ a.toNat + n ≤ 4096 := by
  unfold inBounds
  rw [Bool.or_eq_true, decide_eq_true_iff, decide_eq_true_iff]
  rfl

theorem State.memRead_ok {s : State} {a : Word} {n : Nat} (h : inBounds a n = true) :
    s.memRead a n = .ok (s.mem.readBytes a.toNat n) := by simp [State.memRead, h]

theorem State.memRead_error {s : State} {a : Word} {n : Nat} (h : inBounds a n = false) :
    s.memRead a n = .error (.outOfMemory a n) := by simp [State.memRead, h]

theorem State.memWrite_ok {s : State} {a : Word} {bytes : List Byte}
    (h : inBounds a bytes.length = true) :
    s.memWrite a bytes = .ok { s with mem := s.mem.writeBytes a.toNat bytes } := by
  simp [State.memWrite, h]

theorem State.memWrite_error {s : State} {a : Word} {bytes : List Byte}
    (h : inBounds a bytes.length = false) :
    s.memWrite a bytes = .error (.outOfMemory a bytes.length) := by
  simp [State.memWrite, h]

/-- A read answers its bytes or `OutOfMemory`. -/
theorem State.memRead_cases (s : State) (a : Word) (n : Nat) :
    ((n = 0 ∨ a.toNat + n ≤ 4096) ∧ s.memRead a n = .ok (s.mem.readBytes a.toNat n)) ∨
      (n ≠ 0 ∧ 4096 < a.toNat + n ∧ s.memRead a n = .error (.outOfMemory a n)) := by
  by_cases h : inBounds a n = true
  · exact Or.inl ⟨(inBounds_iff a n).mp h, State.memRead_ok h⟩
  · have h2 := mt (inBounds_iff a n).mpr h
    simp only [not_or, not_le] at h2
    exact Or.inr ⟨h2.1, h2.2, State.memRead_error (by simpa using h)⟩

/-- A write changes memory and nothing else, or answers `OutOfMemory`. -/
theorem State.memWrite_cases (s : State) (a : Word) (bytes : List Byte) :
    ((bytes = [] ∨ a.toNat + bytes.length ≤ 4096) ∧
        s.memWrite a bytes = .ok { s with mem := s.mem.writeBytes a.toNat bytes }) ∨
      (bytes ≠ [] ∧ 4096 < a.toNat + bytes.length ∧
        s.memWrite a bytes = .error (.outOfMemory a bytes.length)) := by
  by_cases h : inBounds a bytes.length = true
  · have h2 := (inBounds_iff a bytes.length).mp h
    rw [List.length_eq_zero_iff] at h2
    exact Or.inl ⟨h2, State.memWrite_ok h⟩
  · have h2 := mt (inBounds_iff a bytes.length).mpr h
    simp only [not_or, not_le, List.length_eq_zero_iff] at h2
    exact Or.inr ⟨h2.1, h2.2, State.memWrite_error (by simpa using h)⟩

@[simp] theorem State.regsUpTo_length (s : State) (x : Reg) : (s.regsUpTo x).length = x.val + 1 := by
  have := x.isLt
  simp [State.regsUpTo]

/-- The `k`-th byte of a block store is `V[k]`. -/
theorem State.regsUpTo_getD (s : State) (x r : Reg) (h : r.val ≤ x.val) (d : Byte) :
    (s.regsUpTo x).getD r.val d = s.reg r := by
  have := r.isLt
  have h2 : r.val < x.val + 1 := by omega
  simp [State.regsUpTo, State.reg, h2]

@[simp] theorem bcdDigits_length (b : Byte) : (bcdDigits b).length = 3 := rfl

/-! ### The call stack -/

theorem State.push_full {s : State} (w : Word) (h : s.sp.val = 16) :
    s.push w = .error (.stackFault .overflow) := by simp [State.push, h]

/-- A push below depth 16: the word at `STACK[SP]`, the depth one more, nothing else. -/
theorem State.push_ok {s : State} (w : Word) (h : s.sp.val < 16) :
    s.push w = .ok { s with
      stack := s.stack.set s.sp.val w, sp := ⟨s.sp.val + 1, Nat.succ_lt_succ h⟩ } := by
  simp [State.push, h]

theorem State.pop_empty {s : State} (h : s.sp.val = 0) :
    s.pop = .error (.stackFault .underflow) := by simp [State.pop, h]

/-- A pop above depth 0: the top entry, the depth one less, nothing else. -/
theorem State.pop_ok {s : State} (h : s.sp.val ≠ 0) :
    s.pop = .ok (s.stack[s.sp.val - 1]'(by omega), { s with sp := ⟨s.sp.val - 1, by omega⟩ }) := by
  simp [State.pop, h]

/-! ### The keypad -/

theorem State.isDown_error {s : State} {k : Byte} (h : 0xF < k.toNat) :
    s.isDown k = .error (.invalidKey k) := by simp [State.isDown, h]

theorem State.isDown_ok {s : State} {k : Byte} (h : k.toNat ≤ 0xF) :
    s.isDown k = .ok (s.input.keys.getLsbD k.toNat) := by
  simp [State.isDown]; omega

theorem mem_keysDown {keys : BitVec 16} {k : Nat} :
    k ∈ keysDown keys ↔ k < 16 ∧ keys.getLsbD k = true := by simp [keysDown]

/-- `any_pressed()` answers `None` exactly when no key is down, whatever the choice. -/
theorem anyPressed_none (keys : BitVec 16) (pick : Nat) : anyPressed keys pick = none ↔ keys = 0#16 := by
  have hk : keysDown keys = [] ↔ keys = 0#16 := by
    constructor
    · intro h
      apply BitVec.eq_of_getLsbD_eq
      intro k hk
      by_contra hc
      have : k ∈ keysDown keys := mem_keysDown.mpr ⟨hk, by simpa using hc⟩
      simp [h] at this
    · rintro rfl; rfl
  rw [← hk]
  unfold anyPressed
  constructor
  · intro h
    by_contra hne
    have hpos : 0 < (keysDown keys).length := List.length_pos_iff.mpr hne
    have hlt := Nat.mod_lt pick hpos
    rw [List.getElem?_eq_none_iff] at h
    omega
  · intro h; simp [h]

/-- What `any_pressed()` answers is a key that is down. -/
theorem anyPressed_some {keys : BitVec 16} {pick k : Nat} (h : anyPressed keys pick = some k) :
    k < 16 ∧ keys.getLsbD k = true :=
  mem_keysDown.mp (List.mem_of_getElem? h)

/-- Every key that is down is answered for some choice: the choice is free among them. -/
theorem anyPressed_any {keys : BitVec 16} {k : Nat} (hk : k < 16) (h : keys.getLsbD k = true) :
    ∃ pick, anyPressed keys pick = some k := by
  obtain ⟨p, hp, he⟩ := List.getElem_of_mem (mem_keysDown.mpr ⟨hk, h⟩)
  exact ⟨p, by rw [anyPressed, Nat.mod_eq_of_lt hp, List.getElem?_eq_getElem hp, he]⟩

/-! ### The timers -/

/-- After `n` ticks a timer has lost `n`, but not below 0. -/
theorem countdown_toNat (n : Nat) (t : Byte) : (countdown n t).toNat = t.toNat - n := by
  unfold countdown
  split
  · rename_i h; subst h; simp
  · have := t.isLt
    simp; omega

/-! ### The sequencer -/

@[simp] theorem afterInstruction_next (t : State) :
    afterInstruction (.next t) = .next t.reportAudio.betweenSteps := rfl

/-- The step is the parametrised one at the values this hardware takes. -/
theorem step_eq_stepWith (s : State) : step s = stepWith Config.params s := rfl

/-- A step that answers a next state is one of two things: the quit flag observed, or one
instruction, its report and what falls after it. -/
theorem stepWith_cases {p : Params} {s t : State} (h : stepWith p s = .next t) :
    s.status = .running ∧
      ((s.quit = true ∧ t = s.stop) ∨
        (s.quit = false ∧ ∃ u, s.beginStep.runInstruction p = .next u ∧
          t = u.reportAudio.betweenSteps)) := by
  unfold stepWith State.sequence at h
  split at h
  · cases h
  · cases h
  · rename_i hr
    refine ⟨hr, ?_⟩
    split at h
    · rename_i hq
      cases h
      exact Or.inl ⟨hq, rfl⟩
    · rename_i hq
      refine Or.inr ⟨by simpa using hq, ?_⟩
      cases hu : s.beginStep.runInstruction p with
      | next u => rw [hu] at h; cases h; exact ⟨u, rfl, rfl⟩
      | fault f => rw [hu] at h; cases h
      | refused r => rw [hu] at h; cases h

/-- An instruction that answers a next state: the fetch fails, the decode fails, or the decoded
instruction is executed. -/
theorem State.runInstruction_cases {p : Params} {s t : State} (h : s.runInstruction p = .next t) :
    (0xFFE < s.pc.toNat ∧ t = s.raise (.outOfMemory s.pc 2)) ∨
      ∃ w, s.pc.toNat ≤ 0xFFE ∧
        w = bigEndian (s.mem.read s.pc.toNat) (s.mem.read (s.pc.toNat + 1)) ∧
        (((∃ e, decodeWord p.strictDecode w = .error e) ∧
            t = (s.setOp w).raise (.unknownOpcode w)) ∨
          ∃ i, decodeWord p.strictDecode w = .ok i ∧ exec i (s.setOp w) = .next t) := by
  unfold State.runInstruction State.fetch at h
  by_cases hp : 0xFFE < s.pc.toNat
  · simp only [hp, if_true] at h
    cases h
    exact Or.inl ⟨hp, rfl⟩
  · simp only [hp, if_false] at h
    refine Or.inr ⟨_, by omega, rfl, ?_⟩
    split at h
    · rename_i i hi
      exact Or.inr ⟨i, hi, h⟩
    · rename_i e he
      cases h
      exact Or.inl ⟨⟨e, he⟩, rfl⟩

end Sys2Proof.Machine
end

