-- ==== Sys2Proof/Laws/PerInstr.lean ====
section
/-! SUPPORT. Per instruction: its word lies in its row of spec/opcode_table.json (match and mask). -/

namespace Sys2Proof.Laws.TablePattern

/-- The bits of the encoded word under the row's mask are the row's match, for either value of
`STRICT_DECODE` (30_encoding.md R67, R70). -/
def Statement (i : Instr) : Prop :=
  ∀ strict, encode i &&& (tableRow strict i).2 = (tableRow strict i).1

/-- Under the mask of the leading nibble, format `A` is its class. -/
theorem packA_mask (op : Nibble) (nnn : Addr) : packA op nnn &&& 0xF000#16 = packA op 0#12 := by
  apply BitVec.eq_of_getLsbD_eq
  intro k hk
  rw [BitVec.getLsbD_and, packA_getLsbD, packA_getLsbD]
  interval_cases k <;> simp

/-- Under the mask of the leading nibble, format `XKK` is its class. -/
theorem packXKK_class (op : Nibble) (x : Reg) (kk : Byte) :
    packXKK op x kk &&& 0xF000#16 = packXKK op 0 0#8 := by
  apply BitVec.eq_of_getLsbD_eq
  intro k hk
  rw [BitVec.getLsbD_and, packXKK_getLsbD, packXKK_getLsbD]
  interval_cases k <;> simp

/-- Under the mask of all but `x`, format `X` is its class and function byte. -/
theorem packXKK_function (op : Nibble) (x : Reg) (kk : Byte) :
    packXKK op x kk &&& 0xF0FF#16 = packXKK op 0 kk := by
  apply BitVec.eq_of_getLsbD_eq
  intro k hk
  rw [BitVec.getLsbD_and, packXKK_getLsbD, packXKK_getLsbD]
  interval_cases k <;> simp

/-- Under the mask of the leading nibble, format `XYN` is its class. -/
theorem packXYN_class (op : Nibble) (x y : Reg) (n : Nibble) :
    packXYN op x y n &&& 0xF000#16 = packXYN op 0 0 0#4 := by
  apply BitVec.eq_of_getLsbD_eq
  intro k hk
  rw [BitVec.getLsbD_and, packXYN_getLsbD, packXYN_getLsbD]
  interval_cases k <;> simp

/-- Under the mask of all but `x` and `y`, format `XY` is its class and function nibble. -/
theorem packXYN_function (op : Nibble) (x y : Reg) (n : Nibble) :
    packXYN op x y n &&& 0xF00F#16 = packXYN op 0 0 n := by
  apply BitVec.eq_of_getLsbD_eq
  intro k hk
  rw [BitVec.getLsbD_and, packXYN_getLsbD, packXYN_getLsbD]
  interval_cases k <;> simp

theorem cls : Statement .cls := by
  intro strict
  cases strict <;> decide

theorem ret : Statement .ret := by
  intro strict
  cases strict <;> decide

theorem sys (nnn : Addr) : Statement (.sys nnn) := fun _ => packA_mask _ nnn

theorem jp (nnn : Addr) : Statement (.jp nnn) := fun _ => packA_mask _ nnn

theorem call (nnn : Addr) : Statement (.call nnn) := fun _ => packA_mask _ nnn

theorem seByte (x : Reg) (kk : Byte) : Statement (.seByte x kk) := fun _ => packXKK_class _ x kk

theorem sneByte (x : Reg) (kk : Byte) : Statement (.sneByte x kk) := fun _ => packXKK_class _ x kk

theorem seReg (x y : Reg) : Statement (.seReg x y) := by
  intro strict
  cases strict
  · exact packXYN_class _ x y _
  · exact packXYN_function _ x y _

theorem ldByte (x : Reg) (kk : Byte) : Statement (.ldByte x kk) := fun _ => packXKK_class _ x kk

theorem addByte (x : Reg) (kk : Byte) : Statement (.addByte x kk) := fun _ => packXKK_class _ x kk

theorem ldReg (x y : Reg) : Statement (.ldReg x y) := fun _ => packXYN_function _ x y _

theorem orReg (x y : Reg) : Statement (.orReg x y) := fun _ => packXYN_function _ x y _

theorem andReg (x y : Reg) : Statement (.andReg x y) := fun _ => packXYN_function _ x y _

theorem xorReg (x y : Reg) : Statement (.xorReg x y) := fun _ => packXYN_function _ x y _

theorem addReg (x y : Reg) : Statement (.addReg x y) := fun _ => packXYN_function _ x y _

theorem subReg (x y : Reg) : Statement (.subReg x y) := fun _ => packXYN_function _ x y _

theorem shrReg (x y : Reg) : Statement (.shrReg x y) := fun _ => packXYN_function _ x y _

theorem subnReg (x y : Reg) : Statement (.subnReg x y) := fun _ => packXYN_function _ x y _

theorem shlReg (x y : Reg) : Statement (.shlReg x y) := fun _ => packXYN_function _ x y _

theorem sneReg (x y : Reg) : Statement (.sneReg x y) := by
  intro strict
  cases strict
  · exact packXYN_class _ x y _
  · exact packXYN_function _ x y _

theorem ldI (nnn : Addr) : Statement (.ldI nnn) := fun _ => packA_mask _ nnn

theorem jpV0 (nnn : Addr) : Statement (.jpV0 nnn) := fun _ => packA_mask _ nnn

theorem rnd (x : Reg) (kk : Byte) : Statement (.rnd x kk) := fun _ => packXKK_class _ x kk

theorem drw (x y : Reg) (n : Nibble) : Statement (.drw x y n) := fun _ => packXYN_class _ x y n

theorem skp (x : Reg) : Statement (.skp x) := fun _ => packXKK_function _ x _

theorem sknp (x : Reg) : Statement (.sknp x) := fun _ => packXKK_function _ x _

theorem ldVxDt (x : Reg) : Statement (.ldVxDt x) := fun _ => packXKK_function _ x _

theorem ldVxK (x : Reg) : Statement (.ldVxK x) := fun _ => packXKK_function _ x _

theorem ldDtVx (x : Reg) : Statement (.ldDtVx x) := fun _ => packXKK_function _ x _

theorem ldStVx (x : Reg) : Statement (.ldStVx x) := fun _ => packXKK_function _ x _

theorem addI (x : Reg) : Statement (.addI x) := fun _ => packXKK_function _ x _

theorem ldF (x : Reg) : Statement (.ldF x) := fun _ => packXKK_function _ x _

theorem ldB (x : Reg) : Statement (.ldB x) := fun _ => packXKK_function _ x _

theorem ldMemVx (x : Reg) : Statement (.ldMemVx x) := fun _ => packXKK_function _ x _

theorem ldVxMem (x : Reg) : Statement (.ldVxMem x) := fun _ => packXKK_function _ x _

end Sys2Proof.Laws.TablePattern
end

