-- ==== Sys2Proof/Tests/Slice0.lean ====
section
/-! SUPPORT. Small tests: the WellFormed smoke, the decoding of words written out from the spec, one or
two steps per instruction with the expected values of 95_test_vectors.md, and for every obligation
with hypotheses a witness that meets them. -/

namespace Sys2Proof.Tests

open Sys2Proof.Machine

/-! ### Helpers -/

/-- A step's outside inputs: keys and random byte as given, the lowest key, no tick. -/
def withKeys (keys : BitVec 16) (rand : Byte) : Input := ⟨keys, rand, 0, 0, 0⟩

/-- No key down, random byte 0, no tick. -/
def quiet : Input := withKeys 0#16 0#8

/-- Registers set to bytes. -/
def setRegs (s : State) (rs : List (Reg × Byte)) : State := rs.foldl (fun s p => s.setReg p.1 p.2) s

/-- The vectors' start state: after reset, a word at 0x200, some registers set, quiet inputs. -/
def ready (w : Nat) (rs : List (Reg × Byte)) : State :=
  setRegs { State.reset.withFetchWord 16 w with script := [quiet] } rs

/-- The state answered, if one is. -/
def answer : Result → Option State
  | .next t => some t
  | .fault _ => none
  | .refused _ => none

theorem answer_next {r : Result} {t : State} (h : answer r = some t) : r = .next t := by
  cases r <;> simp_all [answer]

/-- The state a step answers, if it answers one. -/
def stepped (s : State) : Option State := answer (step s)

/-- What a step leaves, through a view of the state. -/
def see {α : Type} (s : State) (view : State → α) : Option α := (stepped s).map view

/-- The addresses and bytes put into memory. -/
def poke (s : State) (a : Nat) (bytes : List Byte) : State := { s with mem := s.mem.writeBytes a bytes }

/-- A stack of 16 entries, all the same. -/
def stackOf (w : Word) : Vector Word 16 := Vector.replicate 16 w

/-- The grid with one pixel set, at (0, 0). -/
def oneDot : Grid := Grid.blank.flip 0 0

/-! ### WellFormed: the one check, refused and accepted -/

theorem test_wf_refuses_sys_cls : (Instr.sys 0x0E0#12).wf false = false := by decide
theorem test_wf_refuses_sys_ret : (Instr.sys 0x0EE#12).wf false = false := by decide
theorem test_wf_refuses_sys_cls_strict : (Instr.sys 0x0E0#12).wf true = false := by decide
theorem test_wf_refuses_sys_ret_strict : (Instr.sys 0x0EE#12).wf true = false := by decide
theorem test_wf_refuses_sys_1e0 : (Instr.sys 0x1E0#12).wf false = false := by decide
theorem test_wf_accepts_sys_1e0_strict : (Instr.sys 0x1E0#12).wf true = true := by decide
theorem test_wf_accepts_sys : (Instr.sys 0x0E1#12).wf false = true := by decide
theorem test_wf_accepts_drw : (Instr.drw 0xF 0xF 0xF#4).wf true = true := by decide

/-! ### Decoding: each constructor from a word written out from 30_encoding.md R67

Bits 15:12 are the class, 11:8 `x`, 7:4 `y`, 3:0 `n`, 7:0 `kk`, 11:0 `nnn`. -/

theorem test_decode_cls : decodeTableWord 16 0b0000000011100000 = some .cls := by decide
theorem test_decode_ret : decodeTableWord 16 0b0000000011101110 = some .ret := by decide
theorem test_decode_sys : decodeTableWord 16 0b0000000100100011 = some (.sys 0x123#12) := by decide
theorem test_decode_jp : decodeTableWord 16 0b0001001011110000 = some (.jp 0x2F0#12) := by decide
theorem test_decode_call : decodeTableWord 16 0b0010101010111100 = some (.call 0xABC#12) := by decide
theorem test_decode_seByte : decodeTableWord 16 0b0011001000010000 = some (.seByte 2 0x10#8) := by
  decide
theorem test_decode_sneByte : decodeTableWord 16 0b0100001000010001 = some (.sneByte 2 0x11#8) := by
  decide
theorem test_decode_seReg : decodeTableWord 16 0b0101000100100000 = some (.seReg 1 2) := by decide
theorem test_decode_ldByte : decodeTableWord 16 0b0110101001000010 = some (.ldByte 10 0x42#8) := by
  decide
theorem test_decode_addByte : decodeTableWord 16 0b0111000111111110 = some (.addByte 1 0xFE#8) := by
  decide
theorem test_decode_ldReg : decodeTableWord 16 0b1000000100100000 = some (.ldReg 1 2) := by decide
theorem test_decode_orReg : decodeTableWord 16 0b1000000100100001 = some (.orReg 1 2) := by decide
theorem test_decode_andReg : decodeTableWord 16 0b1000000100100010 = some (.andReg 1 2) := by decide
theorem test_decode_xorReg : decodeTableWord 16 0b1000000100100011 = some (.xorReg 1 2) := by decide
theorem test_decode_addReg : decodeTableWord 16 0b1000000100100100 = some (.addReg 1 2) := by decide
theorem test_decode_subReg : decodeTableWord 16 0b1000000100100101 = some (.subReg 1 2) := by decide
theorem test_decode_shrReg : decodeTableWord 16 0b1000000100100110 = some (.shrReg 1 2) := by decide
theorem test_decode_subnReg : decodeTableWord 16 0b1000000100100111 = some (.subnReg 1 2) := by decide
theorem test_decode_shlReg : decodeTableWord 16 0b1000000100101110 = some (.shlReg 1 2) := by decide
theorem test_decode_sneReg : decodeTableWord 16 0b1001000100100000 = some (.sneReg 1 2) := by decide
theorem test_decode_ldI : decodeTableWord 16 0b1010001011110000 = some (.ldI 0x2F0#12) := by decide
theorem test_decode_jpV0 : decodeTableWord 16 0b1011010100000000 = some (.jpV0 0x500#12) := by decide
theorem test_decode_rnd : decodeTableWord 16 0b1100001100001111 = some (.rnd 3 0x0F#8) := by decide
theorem test_decode_drw : decodeTableWord 16 0b1101000100100101 = some (.drw 1 2 5#4) := by decide
theorem test_decode_skp : decodeTableWord 16 0b1110001110011110 = some (.skp 3) := by decide
theorem test_decode_sknp : decodeTableWord 16 0b1110001110100001 = some (.sknp 3) := by decide
theorem test_decode_ldVxDt : decodeTableWord 16 0b1111001100000111 = some (.ldVxDt 3) := by decide
theorem test_decode_ldVxK : decodeTableWord 16 0b1111001100001010 = some (.ldVxK 3) := by decide
theorem test_decode_ldDtVx : decodeTableWord 16 0b1111001100010101 = some (.ldDtVx 3) := by decide
theorem test_decode_ldStVx : decodeTableWord 16 0b1111001100011000 = some (.ldStVx 3) := by decide
theorem test_decode_addI : decodeTableWord 16 0b1111001100011110 = some (.addI 3) := by decide
theorem test_decode_ldF : decodeTableWord 16 0b1111001100101001 = some (.ldF 3) := by decide
theorem test_decode_ldB : decodeTableWord 16 0b1111001100110011 = some (.ldB 3) := by decide
theorem test_decode_ldMemVx : decodeTableWord 16 0b1111001101010101 = some (.ldMemVx 3) := by decide
theorem test_decode_ldVxMem : decodeTableWord 16 0b1111001101100101 = some (.ldVxMem 3) := by decide

/-- The encoder lays the same words out: E-words of 95_test_vectors.md the other way round. -/
theorem test_encode_drw : encodeBytes (.drw 1 2 5#4) = [0xD1#8, 0x25#8] := by decide

/-- 95_test_vectors.md E4, E5: by default the `x` of CLS and RET is ignored. -/
theorem test_decode_lenient_class0 :
    decodeWord false 0x01E0#16 = .ok .cls ∧ decodeWord false 0x0FEE#16 = .ok .ret := by decide

/-- E4, E5, strict: those words are SYS. -/
theorem test_decode_strict_class0 :
    decodeWord true 0x01E0#16 = .ok (.sys 0x1E0#12) ∧
    decodeWord true 0x0FEE#16 = .ok (.sys 0xFEE#12) := by decide

/-- E8, E9: the low nibble of the register skips, by default ignored. -/
theorem test_decode_lenient_skips :
    decodeWord false 0x5121#16 = .ok (.seReg 1 2) ∧
    decodeWord false 0x912F#16 = .ok (.sneReg 1 2) := by decide

/-- E8, E9, strict: illegal. -/
theorem test_decode_strict_skips :
    decodeWord true 0x5121#16 = .error (.unknownOpcode 0x5121#16) ∧
    decodeWord true 0x912F#16 = .error (.unknownOpcode 0x912F#16) := by decide

/-- E10: the seven holes of class 8. -/
theorem test_decode_class8_holes :
    [0x8008#16, 0x8009#16, 0x800A#16, 0x800B#16, 0x800C#16, 0x800D#16, 0x800F#16].all
      (fun w => decodeWord false w == .error (.unknownOpcode w)) = true := by decide

/-- E13, E15: holes of classes E and F. -/
theorem test_decode_class_ef_holes :
    [0xE09F#16, 0xE000#16, 0xEFFF#16, 0xF000#16, 0xF00B#16, 0xF066#16, 0xFFFF#16].all
      (fun w => decodeWord false w == .error (.unknownOpcode w)) = true := by decide

/-- One byte is no instruction. -/
theorem test_decode_truncated : decodeBytes false [0x00#8] = .error .truncated := by decide

/-! ### Flow -/

/-- F1. -/
theorem test_jp : see (ready 0x1ABC []) State.pc = some 0xABC#16 := by decide
/-- F3: the next step fails to fetch. -/
theorem test_jp_top :
    (see (ready 0x1FFF []) (fun t => see t State.status)) =
      some (some (.halted (.outOfMemory 0xFFF#16 2))) := by decide
/-- W3: `2100` at 0x202 pushes 0x202. -/
theorem test_call :
    see (poke { ready 0 [] with pc := 0x202#16 } 0x202 [0x21#8, 0x00#8])
      (fun t => (t.stack[0], t.sp.val, t.pc)) = some (0x202#16, 1, 0x100#16) := by decide
/-- F6. -/
theorem test_call_full :
    see { ready 0x2300 [] with sp := 16, stack := stackOf 0x200#16 }
      (fun t => (t.status, t.sp.val, t.pc)) =
        some (.halted (.stackFault .overflow), 16, 0x200#16) := by decide
/-- F7. -/
theorem test_ret :
    see { ready 0x00EE [] with sp := 1, stack := stackOf 0x300#16 }
      (fun t => (t.stack[0], t.sp.val, t.pc)) = some (0x300#16, 0, 0x302#16) := by decide
/-- F5. -/
theorem test_ret_empty :
    see (ready 0x00EE []) (fun t => (t.status, t.pc)) =
      some (.halted (.stackFault .underflow), 0x200#16) := by decide
/-- F11: V0 is used, not the register of the `x` field. -/
theorem test_jpV0 : see (ready 0xB500 [(0, 0x12#8), (5, 0x99#8)]) State.pc = some 0x512#16 := by decide
/-- F10. -/
theorem test_jpV0_past_memory : see (ready 0xBFFF [(0, 0xFF#8)]) State.pc = some 0x10FE#16 := by decide

/-! ### Skips -/

/-- S1. -/
theorem test_seByte :
    (see (ready 0x3210 [(2, 0x10#8)]) State.pc, see (ready 0x3211 [(2, 0x10#8)]) State.pc) =
      (some 0x204#16, some 0x202#16) := by decide
/-- S2. -/
theorem test_sneByte :
    (see (ready 0x4210 [(2, 0x10#8)]) State.pc, see (ready 0x4211 [(2, 0x10#8)]) State.pc) =
      (some 0x202#16, some 0x204#16) := by decide
/-- S4. -/
theorem test_seReg : see (ready 0x5121 [(1, 3#8), (2, 3#8)]) State.pc = some 0x204#16 := by decide
/-- S4, with unequal registers. -/
theorem test_seReg_ne : see (ready 0x5120 [(1, 3#8), (2, 4#8)]) State.pc = some 0x202#16 := by decide
/-- S6. -/
theorem test_sneReg_self : see (ready 0x9330 [(3, 7#8)]) State.pc = some 0x202#16 := by decide
/-- 41_skip.md R97. -/
theorem test_sneReg : see (ready 0x9120 [(1, 3#8), (2, 4#8)]) State.pc = some 0x204#16 := by decide
/-- S7. -/
theorem test_skp :
    (see { ready 0xE39E [(3, 0x0A#8)] with script := [withKeys 0x0400#16 0#8] } State.pc,
      see (ready 0xE39E [(3, 0x0A#8)]) State.pc) = (some 0x204#16, some 0x202#16) := by decide
/-- S9. -/
theorem test_skp_invalid :
    see (ready 0xE09E [(0, 0x10#8)]) (fun t => (t.status, t.pc)) =
      some (.halted (.invalidKey 0x10#8), 0x200#16) := by decide
/-- S8. -/
theorem test_sknp :
    (see { ready 0xE3A1 [(3, 0x0A#8)] with script := [withKeys 0x0400#16 0#8] } State.pc,
      see (ready 0xE3A1 [(3, 0x0A#8)]) State.pc) = (some 0x202#16, some 0x204#16) := by decide
/-- S9. -/
theorem test_sknp_invalid :
    see (ready 0xE0A1 [(0, 0x10#8)]) (fun t => (t.status, t.pc)) =
      some (.halted (.invalidKey 0x10#8), 0x200#16) := by decide

/-! ### Loads and arithmetic -/

/-- A1. -/
theorem test_ldByte : see (ready 0x6A42 []) (fun t => t.reg 10) = some 0x42#8 := by decide
/-- A2: no flag. -/
theorem test_addByte_wraps :
    see (ready 0x7101 [(1, 0xFF#8), (15, 0x55#8)]) (fun t => (t.reg 1, t.reg 15)) =
      some (0#8, 0x55#8) := by decide
/-- A3. -/
theorem test_addByte_vf : see (ready 0x7F01 [(15, 1#8)]) (fun t => t.reg 15) = some 2#8 := by decide
/-- A5. -/
theorem test_ldReg : see (ready 0x81F0 [(15, 1#8)]) (fun t => t.reg 1) = some 1#8 := by decide
/-- A6: VF is not reset. -/
theorem test_orReg :
    see (ready 0x8121 [(1, 0xF0#8), (2, 0x0F#8), (15, 1#8)]) (fun t => (t.reg 1, t.reg 15)) =
      some (0xFF#8, 1#8) := by decide
/-- A7. -/
theorem test_andReg :
    see (ready 0x8122 [(1, 0xF0#8), (2, 0x3C#8)]) (fun t => t.reg 1) = some 0x30#8 := by decide
/-- A7. -/
theorem test_xorReg :
    see (ready 0x8123 [(1, 0xF0#8), (2, 0x3C#8)]) (fun t => t.reg 1) = some 0xCC#8 := by decide
/-- W4. -/
theorem test_addReg_carry :
    see (ready 0x8124 [(1, 0xFF#8), (2, 1#8)]) (fun t => (t.reg 1, t.reg 15)) =
      some (0#8, 1#8) := by decide
/-- A10: the flag replaces the result. -/
theorem test_addReg_vf : see (ready 0x8F14 [(15, 0x10#8), (1, 0x20#8)]) (fun t => t.reg 15) =
    some 0#8 := by decide
/-- W5. -/
theorem test_subReg_borrow :
    see (ready 0x8125 [(1, 3#8), (2, 5#8)]) (fun t => (t.reg 1, t.reg 15)) =
      some (0xFE#8, 0#8) := by decide
/-- A12: equal operands give 0. -/
theorem test_subReg_equal :
    see (ready 0x8125 [(1, 0x40#8), (2, 0x40#8)]) (fun t => (t.reg 1, t.reg 15)) =
      some (0#8, 0#8) := by decide
/-- A14. -/
theorem test_subnReg :
    see (ready 0x8127 [(1, 3#8), (2, 5#8)]) (fun t => (t.reg 1, t.reg 15)) =
      some (2#8, 1#8) := by decide
/-- A16. -/
theorem test_subnReg_equal :
    see (ready 0x8127 [(1, 7#8), (2, 7#8)]) (fun t => (t.reg 1, t.reg 15)) =
      some (0#8, 0#8) := by decide
/-- A18: Vy is ignored. -/
theorem test_shrReg :
    see (ready 0x8126 [(1, 1#8), (2, 0xFF#8)]) (fun t => (t.reg 1, t.reg 2, t.reg 15)) =
      some (0#8, 0xFF#8, 1#8) := by decide
/-- A19. -/
theorem test_shrReg_vf : see (ready 0x8F06 [(15, 2#8)]) (fun t => t.reg 15) = some 0#8 := by decide
/-- A20. -/
theorem test_shlReg_out :
    see (ready 0x810E [(1, 0x81#8)]) (fun t => (t.reg 1, t.reg 15)) = some (2#8, 1#8) := by decide
/-- A20. -/
theorem test_shlReg :
    see (ready 0x810E [(1, 0x7F#8)]) (fun t => (t.reg 1, t.reg 15)) = some (0xFE#8, 0#8) := by decide

/-! ### Index and memory -/

/-- M1. -/
theorem test_ldI : see (ready 0xA2F0 []) State.i = some 0x2F0#16 := by decide
/-- M2: no overflow clears VF. -/
theorem test_addI :
    see { ready 0xF11E [(1, 0x10#8), (15, 1#8)] with i := 0x100#16 } (fun t => (t.i, t.reg 15)) =
      some (0x110#16, 0#8) := by decide
/-- M5: the old VF is the addend. -/
theorem test_addI_vf :
    see { ready 0xFF1E [(15, 2#8)] with i := 0xFFF#16 } (fun t => (t.i, t.reg 15)) =
      some (0x001#16, 1#8) := by decide
/-- M6. -/
theorem test_ldF : see (ready 0xF029 [(0, 0x0F#8)]) State.i = some 0x04B#16 := by decide
/-- M6: all 8 bits are used. -/
theorem test_ldF_large : see (ready 0xF029 [(0, 0xFF#8)]) State.i = some 0x4FB#16 := by decide
/-- M8. -/
theorem test_ldB :
    see { ready 0xF033 [(0, 123#8)] with i := 0xFFD#16 } (fun t => t.mem.readBytes 0xFFD 3) =
      some [1#8, 2#8, 3#8] := by decide
/-- M9. -/
theorem test_ldB_past_memory :
    see { ready 0xF033 [(0, 123#8)] with i := 0xFFE#16 }
      (fun t => (t.status, t.mem.readBytes 0xFFE 2)) =
        some (.halted (.outOfMemory 0xFFE#16 3), [0#8, 0#8]) := by decide
/-- W6, and `I` is unchanged. -/
theorem test_ldMemVx :
    see { ready 0xF355 [(0, 0x11#8), (1, 0x22#8), (2, 0x33#8), (3, 0x44#8), (4, 0x55#8)] with
        i := 0x400#16 } (fun t => (t.mem.readBytes 0x400 5, t.i)) =
      some ([0x11#8, 0x22#8, 0x33#8, 0x44#8, 0#8], 0x400#16) := by decide
/-- M11. -/
theorem test_ldMemVx_past_memory :
    see { ready 0xFF55 [(0, 1#8)] with i := 0xFF1#16 } (fun t => (t.status, t.mem.read 0xFF1)) =
      some (.halted (.outOfMemory 0xFF1#16 16), 0#8) := by decide
/-- M14: glyph 0 read back. -/
theorem test_ldVxMem :
    see (ready 0xF465 [(5, 0xAA#8)]) (fun t => (t.v.toList.take 6, t.i)) =
      some ([0xF0#8, 0x90#8, 0x90#8, 0x90#8, 0xF0#8, 0xAA#8], 0#16) := by decide
/-- M12. -/
theorem test_ldVxMem_top :
    see (poke { ready 0xF065 [] with i := 0xFFF#16 } 0xFFF [0xAB#8]) (fun t => (t.reg 0, t.i)) =
      some (0xAB#8, 0xFFF#16) := by decide

/-! ### Random, display, timers, input, SYS -/

/-- X1. -/
theorem test_rnd :
    see { ready 0xC30F [] with script := [withKeys 0#16 0xB7#8] } (fun t => t.reg 3) =
      some 0x07#8 := by decide
/-- D1. -/
theorem test_cls :
    see { ready 0x00E0 [(15, 9#8)] with fb := oneDot } (fun t => (t.fb, t.reg 15, t.calls)) =
      some (Grid.blank, 9#8, [.clear]) := by decide
/-- D3: glyph 0, its first two rows; column 0 is bit 0. -/
theorem test_drw :
    see (ready 0xD015 []) (fun t => (t.fb[0], t.fb[1], t.fb[5], t.reg 15)) =
      some (0b1111#64, 0b1001#64, 0#64, 0#8) := by decide
/-- D9 and D4 in one: a collision at (31, 63) and a row that wraps. -/
theorem test_drw_wraps :
    see { poke (ready 0xD011 [(0, 62#8), (1, 31#8)]) 0x300 [0xFF#8] with
        i := 0x300#16, fb := Grid.blank.flip 31 63 } (fun t => (t.fb[31], t.fb[0], t.reg 15)) =
      some (0x400000000000003F#64, 0#64, 1#8) := by decide
/-- T2. -/
theorem test_ldVxDt : see { ready 0xF207 [] with dt := 0x3C#8 } (fun t => t.reg 2) = some 0x3C#8 := by
  decide
/-- T1, with three ticks of `DT` and none of `ST` falling after the step. -/
theorem test_ldDtVx :
    see { ready 0xF015 [(0, 0x0A#8)] with script := [⟨0#16, 0#8, 0, 3, 0⟩], st := 9#8 }
      (fun t => (t.dt, t.st)) = some (7#8, 9#8) := by decide
/-- T4. -/
theorem test_ldStVx :
    see (ready 0xF118 [(1, 5#8)]) (fun t => (t.st, t.audioOn)) = some (5#8, true) := by decide
/-- T5. -/
theorem test_ldStVx_zero :
    see { ready 0xF118 [] with st := 9#8 } (fun t => (t.st, t.audioOn)) = some (0#8, false) := by decide
/-- K1 and K2: `PC` is held, and the next step finds key 5. -/
theorem test_ldVxK :
    see { ready 0xF30A [(3, 9#8)] with script := [quiet, withKeys 0x0020#16 0#8] }
      (fun t => (t.pc, t.reg 3, t.op, see t (fun u => (u.pc, u.reg 3)))) =
      some (0x200#16, 9#8, 0xF30A#16, some (0x202#16, 5#8)) := by decide
/-- K3: with keys 0 and 5 down, both are admitted. -/
theorem test_ldVxK_choice :
    (see { ready 0xF30A [] with script := [⟨0x0021#16, 0#8, 0, 0, 0⟩] } (fun t => t.reg 3),
      see { ready 0xF30A [] with script := [⟨0x0021#16, 0#8, 1, 0, 0⟩] } (fun t => t.reg 3)) =
      (some 0#8, some 5#8) := by decide
/-- W9: nothing else. -/
theorem test_sys :
    stepped (ready 0x0123 []) = some { ready 0x0123 [] with
      pc := 0x202#16, op := 0x0123#16, script := [], draws := 1 } := by decide

/-! ### The sequencer and the host -/

/-- P7. -/
theorem test_unknown_opcode :
    see (ready 0x8008 []) (fun t => (t.status, t.pc, t.op)) =
      some (.halted (.unknownOpcode 0x8008#16), 0x200#16, 0x8008#16) := by decide
/-- B5: `OP` keeps its old value. -/
theorem test_fetch_outside :
    see { ready 0 [] with pc := 0xFFF#16, op := 0x1234#16 } (fun t => (t.status, t.op)) =
      some (.halted (.outOfMemory 0xFFF#16 2), 0x1234#16) := by decide
/-- B2. -/
theorem test_load :
    see ({ State.reset with script := [quiet] }.host (.load (some [0x12#8, 0x00#8]))) State.pc =
      some 0x200#16 := by decide
/-- B3. -/
theorem test_load_unreadable : (State.reset.host (.load none)).status = .halted .ioFault := rfl
/-- B6. -/
theorem test_quit :
    (see (State.reset.host .quit) State.status,
      see (State.reset.host .quit) (fun t => stepped t)) = (some .stopped, some none) := by decide
/-- R85: the step reports `AUDIO_ON` before the ticks that follow it take `ST` to 0. -/
theorem test_reported_audio :
    see { ready 0xF118 [(1, 2#8)] with script := [⟨0#16, 0#8, 0, 0, 2⟩] }
      (fun t => (t.audio, t.st, t.audioOn)) = some (true, 0#8, false) := by decide
/-- R10, R70: with `STRICT_DECODE` a step halts on `5121`, and 01E0 is SYS. -/
theorem test_strict_step :
    ((answer (stepWith { Config.params with strictDecode := true } (ready 0x5121 []))).map State.status,
      (answer (stepWith { Config.params with strictDecode := true } (ready 0x01E0 []))).map State.calls) =
      (some (.halted (.unknownOpcode 0x5121#16)), some []) := by decide
/-- Another font, all bytes 0x3C, and the other values of the parameters at their defaults. -/
def otherFont : Params := { Config.params with font := Vector.replicate 80 0x3C#8 }

/-- R10, R33: a reset with another font leaves that font. -/
theorem test_reset_font : (State.reset.hostWith otherFont .reset).mem.read 0x04F = 0x3C#8 := by
  rw [State.hostWith_reset]
  dsimp only
  have hf : otherFont.resetArbitrary = false := rfl
  rw [State.resetWith_mem, hf, Memory.drawReserved_false, Memory.read_withFont]
  simp [otherFont]

/-- B7, from a machine with the quit flag set and a register written. -/
theorem test_reset_after_halt :
    ((setRegs State.reset [(3, 7#8)]).hostQuit.raise .ioFault).host .reset =
      { State.reset with draws := 1 } := by
  rw [State.host, State.hostWith_reset, State.resetWith_params]
  decide
/-- 10_state.md R34: only a reset leaves STOPPED, so a load there has no effect. -/
theorem test_load_stopped : (State.reset.stop.host (.load none)).status = .stopped := by decide
/-- T3. -/
theorem test_ticks :
    ((({ State.reset with dt := 1#8 }.host .tickDt).host .tickDt).dt,
      ({ State.reset with dt := 1#8 }.host .tickSt).dt) = (0#8, 1#8) := by decide
/-- T7. -/
theorem test_tick_halted :
    (({ State.reset with dt := 4#8 }.raise .ioFault).host .tickDt).dt = 4#8 := by decide
/-- What the host runs: the instruction placed is the first one run after reset. -/
theorem test_first_instruction :
    see (State.reset.withFetchWord 16 0x6A42) (fun t => t.reg 10) = some 0x42#8 := by decide
/-- Memory is canonical: writing the reset contents back leaves no entry. -/
theorem test_memory_canonical :
    (poke (poke State.reset 0x300 [7#8]) 0x300 [0#8]).mem = State.reset.mem := by decide

/-! ### Witnesses: states and operands that meet the hypotheses of the obligations -/

theorem test_witness_OpcodeMapDecodes :
    (0x0E1#12 : Addr).toNat % 0x100 ≠ 0xE0 ∧ (0x0E1#12 : Addr).toNat % 0x100 ≠ 0xEE := by decide

theorem test_witness_DecodeOfEncode :
    (Instr.sys 0xFFF#12).wf false = true ∧ (Instr.sys 0xFEE#12).wf true = true := by decide

theorem test_witness_EncodeOfStrictDecode : decodeWord true 0x01E0#16 = .ok (.sys 0x1E0#12) := by decide

theorem test_witness_DecodedWordLiesInItsTableRow :
    decodeWord false 0x512F#16 = .ok (.seReg 1 2) ∧ decodeWord true 0x5120#16 = .ok (.seReg 1 2) := by
  decide

/-- A word that is not illegal, beside `test_decode_class8_holes` for those that are. -/
theorem test_witness_IllegalWordsExactly : decodeWord false 0x800E#16 = .ok (.shlReg 0 0) := by decide

/-- At the highest `PC` an instruction can be fetched from. -/
theorem test_witness_StepRunsDecodedInstruction :
    let s := poke { State.reset with pc := 0xFFE#16 } 0xFFE [0x81#8, 0x24#8]
    s.status = .running ∧ s.quit = false ∧ s.pc.toNat ≤ 0xFFE ∧
      decodeBytes Config.strictDecode
        [s.mem.read s.pc.toNat, s.mem.read (s.pc.toNat + 1)] = .ok (.addReg 1 2, []) := by decide

theorem test_witness_FetchIsBigEndian :
    { State.reset with pc := 0xFFE#16 }.pc.toNat ≤ 0xFFE := by decide

theorem test_witness_FetchOutsideMemoryHalts :
    let s := { State.reset with pc := 0xFFF#16 }
    s.status = .running ∧ s.quit = false ∧ 0xFFE < s.pc.toNat := by decide

theorem test_witness_UnknownOpcodeHalts :
    let s := poke { State.reset with pc := 0xFFE#16 } 0xFFE [0xFF#8, 0xFF#8]
    s.status = .running ∧ s.quit = false ∧ s.pc.toNat ≤ 0xFFE ∧
      decodeWord Config.strictDecode s.wordAtPc = .error (.unknownOpcode 0xFFFF#16) := by decide

theorem test_witness_EndedMachineTakesNoStep :
    (State.reset.raise .ioFault).status = .halted .ioFault ∧ State.reset.stop.status = .stopped ∧
      State.reset.stop.status ≠ .running := by decide

/-- A word that strict decoding takes and one that it refuses, at the highest `PC`. -/
theorem test_witness_ParametersAreArguments :
    let s := poke { State.reset with pc := 0xFFE#16 } 0xFFE [0x51#8, 0x20#8]
    let u := poke { State.reset with pc := 0xFFE#16 } 0xFFE [0x51#8, 0x21#8]
    s.status = .running ∧ s.quit = false ∧ s.pc.toNat ≤ 0xFFE ∧
      decodeWord true s.wordAtPc = .ok (.seReg 1 2) ∧
      decodeWord true u.wordAtPc = .error (.unknownOpcode 0x5121#16) := by decide

theorem test_witness_QuitStopsBetweenSteps : State.reset.status = .running := rfl

/-- A step that halts by the instruction's own check, one whose fetch fails, one that decodes none. -/
theorem test_witness_HaltingStepIsPrecise :
    see (ready 0x00EE []) State.status = some (.halted (.stackFault .underflow)) ∧
    see { ready 0 [] with pc := 0x1000#16 } State.status =
      some (.halted (.outOfMemory 0x1000#16 2)) ∧
    see (ready 0xE000 []) State.status = some (.halted (.unknownOpcode 0xE000#16)) := by decide

/-- A state at the bounds of the invariant that takes a step: `CALL` from 0xFFE at depth 15. -/
def edge : State :=
  { poke { ready 0 [] with pc := 0xFFE#16, sp := 15, stack := stackOf 0xFFE#16 } 0xFFE [0x23#8, 0#8]
    with i := 0xFFF#16 }

theorem test_edge_invariant : edge.Inv := ⟨by decide, by decide, by decide, by decide⟩

theorem test_witness_StepKeepsInvariant : (stepped edge).isSome = true := by decide

theorem test_witness_HostMovesKeepInvariant : State.reset.Inv :=
  ⟨by decide, by decide, by decide, by decide⟩

/-- Both clauses: an instruction that does not raise and one that does. -/
theorem test_witness_EveryInstructionStaysInItsFootprint :
    raises State.reset .cls = none ∧ raises State.reset .ret ≠ none ∧
      exec .ret State.reset = .next (State.reset.raise (.stackFault .underflow)) :=
  ⟨by decide, by decide, answer_next (by decide)⟩

theorem test_witness_NextPcOfEveryInstruction :
    raises { State.reset with sp := 16 } .ret = none ∧
      (15 : Fin 16).val + 1 = { State.reset with sp := 16 }.sp.val := by decide

/-- The last byte of the 16 that `LD [I], VF` stores, and the third digit of `LD B`. -/
theorem test_witness_OnlyStoresWriteMemory :
    see { ready 0xFF55 [(15, 7#8)] with i := 0xFF0#16 } (fun t => t.mem.read 0xFFF) = some 7#8 ∧
    see { ready 0xF033 [(0, 9#8)] with i := 0xFFD#16 } (fun t => t.mem.read 0xFFF) = some 9#8 ∧
    (ready 0xFF55 []).mem.read 0xFFF = 0#8 := by decide

theorem test_witness_OnlyIndexInstructionsWriteIndex :
    see (ready 0xAFFF []) State.i = some 0xFFF#16 ∧
    see { ready 0xF11E [(1, 1#8)] with i := 0xFFF#16 } State.i = some 0#16 ∧
    see (ready 0xF129 [(1, 0xFF#8)]) State.i = some 0x4FB#16 := by decide

theorem test_witness_OnlyCallAndRetTouchTheStack :
    see { ready 0x2300 [] with sp := 15 } (fun t => t.sp.val) = some 16 ∧
    see { ready 0x00EE [] with sp := 16 } (fun t => t.sp.val) = some 15 := by decide

theorem test_witness_TimersRiseOnlyWhenArmed :
    see (ready 0xF015 [(0, 0xFF#8)]) State.dt = some 0xFF#8 ∧
    see (ready 0xF018 [(0, 0xFF#8)]) State.st = some 0xFF#8 := by decide

/-- The premises met by inputs that differ: a `SKP` with other random bytes, a `RND` with other keys,
a `LD Vx, K` with the same keys. -/
theorem test_witness_OutsideInputsReadOnlyByTheirInstructions :
    ((withKeys 1#16 2#8).keys = (withKeys 1#16 3#8).keys ∧
      (withKeys 1#16 2#8).pick = (withKeys 1#16 3#8).pick ∧ withKeys 1#16 2#8 ≠ withKeys 1#16 3#8) ∧
    ((withKeys 1#16 2#8).rand = (withKeys 4#16 2#8).rand ∧ withKeys 1#16 2#8 ≠ withKeys 4#16 2#8) ∧
    exec (.skp 0) { State.reset with script := [withKeys 1#16 2#8] } =
      .next { State.reset with script := [withKeys 1#16 2#8], pc := 0x204#16 } :=
  ⟨by decide, by decide, answer_next (by decide)⟩

theorem test_witness_NoInstructionReadsSoundTimer :
    exec .cls State.reset = .next { State.reset with pc := 0x202#16, calls := [.clear] } :=
  answer_next (by decide)

/-- Depth 15 and depth 16. -/
theorem test_witness_CallPushesItsAddress :
    (15 : Fin 16).val = { State.reset with sp := 15 }.sp.val ∧
      { State.reset with sp := 16 }.sp.val = 16 := by decide

/-- Depths 1, 16 and 0. -/
theorem test_witness_ReturnPopsAndAddsTwo :
    (0 : Fin 16).val + 1 = { State.reset with sp := 1 }.sp.val ∧
      (15 : Fin 16).val + 1 = { State.reset with sp := 16 }.sp.val ∧ State.reset.sp.val = 0 := by decide

theorem test_witness_CallThenReturnResumesAfterCall :
    { State.reset with sp := 15 }.sp.val < 16 := by decide

theorem test_witness_JumpSetsPc : 0xFFE < (0xFFF#12 : Addr).toNat := by decide

theorem test_witness_SkipOnRegister :
    (1#4 : Nibble) ≠ 0#4 ∧ (0x5121#16 : Word).toNat = 0x5000 + (1 : Reg).val * 0x100 +
      (2 : Reg).val * 0x10 + (1#4 : Nibble).toNat ∧ (0x9121#16 : Word).toNat = 0x9000 +
      (1 : Reg).val * 0x100 + (2 : Reg).val * 0x10 + (1#4 : Nibble).toNat := by decide

/-- The highest key and the first value that is none. -/
theorem test_witness_SkipOnKey :
    ((ready 0 [(0, 0x0F#8)]).reg 0).toNat ≤ 0xF ∧ 0xF < ((ready 0 [(0, 0x10#8)]).reg 0).toNat := by decide

/-- For `AddSetsCarry`, `SubtractSetsNoBorrow` and `ShiftByOne`. -/
theorem test_witness_flag_is_not_the_destination : (14 : Reg) ≠ vf := by decide

theorem test_witness_LoadGlyphAddress : ((ready 0 [(3, 0x0F#8)]).reg 3).toNat ≤ 0xF := by decide

theorem test_witness_StoreDecimalDigits :
    { State.reset with i := 0xFFD#16 }.i.toNat + 2 ≤ 0xFFF ∧
      0xFFF < { State.reset with i := 0xFFE#16 }.i.toNat + 2 := by decide

/-- For `StoreRegisters` and `LoadRegisters`: the last place that fits and the first that does not. -/
theorem test_witness_block_transfers :
    { State.reset with i := 0xFF0#16 }.i.toNat + (15 : Reg).val ≤ 0xFFF ∧
      0xFFF < { State.reset with i := 0xFF1#16 }.i.toNat + (15 : Reg).val ∧ (15 : Reg) ≤ 15 := by decide

/-- The state between the two: other registers, the same `I`, the same bytes there. -/
theorem test_witness_StoreThenLoadRestoresRegisters :
    let s := { ready 0 [(0, 0x11#8), (1, 0x22#8)] with i := 0x400#16 }
    let t := (poke s 0x400 [0x11#8, 0x22#8]).advance
    let u := setRegs (poke t 0x500 [1#8]) [(0, 0#8), (1, 0#8)]
    s.i.toNat + (1 : Reg).val ≤ 0xFFF ∧ exec (.ldMemVx 1) s = .next t ∧ u.i = t.i ∧
      u.mem.read 0x400 = t.mem.read 0x400 ∧ u.mem.read 0x401 = t.mem.read 0x401 :=
  ⟨by decide, answer_next (by decide), by decide, by decide, by decide⟩

/-- Both stores at the last place that fits, and a fetch that overlaps the stored bytes at each end. -/
theorem test_witness_StoredBytesAreFetched :
    let s := { ready 0 [(0, 0xAB#8)] with i := 0xFFE#16 }
    s.i.toNat + (1 : Reg).val ≤ 0xFFF ∧ { s with i := 0xFFD#16 }.i.toNat + 2 ≤ 0xFFF ∧
      (0xFFD#16 : Word).toNat ≤ 0xFFE ∧ (0xFFD#16 : Word).toNat + 1 = s.i.toNat ∧
      (0xFFE#16 : Word).toNat ≤ 0xFFE := by decide

/-- `n = 0` anywhere, a sprite that just fits, and one that does not. -/
theorem test_witness_DrawSprite :
    { State.reset with i := 0xFFE#16 }.i.toNat + (2#4 : Nibble).toNat ≤ 0x1000 ∧
      (3#4 : Nibble) ≠ 0#4 ∧ 0x1000 < { State.reset with i := 0xFFE#16 }.i.toNat +
      (3#4 : Nibble).toNat := by decide

/-- A pixel that a one-row sprite covers and one that it does not. -/
theorem test_witness_SpriteCovers :
    SpriteCovers [0x80#8] 67#8 40#8 8 3 ∧ ¬SpriteCovers [0x80#8] 67#8 40#8 9 3 := by
  refine ⟨⟨0, 0, by decide, by decide, by decide, by decide, by decide⟩, ?_⟩
  rintro ⟨r, c, hr, -, -, hrow, -⟩
  have h0 : r = 0 := Nat.lt_one_iff.mp hr
  subst h0
  exact absurd hrow (by decide)

/-- Clear ground and a sprite with a set bit: the second draw collides; and where the first draw
only clears, the second does not (log entry 29). -/
theorem test_witness_DrawTwiceRestoresGrid :
    [0x80#8].length ≤ 15 ∧ (∃ b ∈ [0x80#8], b ≠ 0#8) ∧
    ((Grid.blank.blit [0x80#8] 0#8 0#8).1.blit [0x80#8] 0#8 0#8).2 = true ∧
    ((oneDot.blit [0x80#8] 0#8 0#8).1.blit [0x80#8] 0#8 0#8).2 = false := by decide

theorem test_witness_clear_ground (row : Fin 32) (col : Fin 64) :
    Grid.pixel Grid.blank row col = false := by simp [Grid.pixel, Grid.blank]

theorem test_witness_TickTakesOneOff : { State.reset with dt := 1#8 }.status = .running := rfl

/-- No key, the keys 0 and 5, the highest key. -/
theorem test_witness_WaitForKey :
    (ready 0 []).input.keys = 0#16 ∧
      { State.reset with script := [withKeys 0x0021#16 0#8] }.input.keys ≠ 0#16 ∧
      { State.reset with script := [withKeys 0x8000#16 0#8] }.input.keys.getLsbD 15 = true := by decide

/-- A running machine, the largest ROM and the smallest that is too large. -/
theorem test_witness_LoadCopiesRom :
    State.reset.status = .running ∧ (List.replicate 3584 0#8).length ≤ 3584 ∧ 3583 < (List.replicate 3584 0#8).length ∧
      3584 < (List.replicate 3585 0#8).length := by
  rw [List.length_replicate, List.length_replicate]
  exact ⟨rfl, by decide⟩

end Sys2Proof.Tests
end

section
/-! PROOFS. The scope's parameters (00_scope.md R10): what a parametrised reset leaves, field by field,
and what a parametrised step answers, by how the word at `PC` decodes. -/

namespace Sys2Proof.Machine

/-! ### The parametrised reset -/

section
variable (p : Params) (k : Nat)

/-- A byte of the font's range after a reset. -/
theorem State.resetWith_mem_font (j : Fin 80) :
    (State.resetWith p k).mem.read j.val = p.font[j.val] := by
  have hlow : ¬(p.resetArbitrary = true ∧ 0x050 ≤ j.val ∧ j.val < 0x200) := by omega
  rw [State.resetWith_mem, Memory.read_drawReserved, if_neg hlow, Memory.read_withFont,
    dif_pos j.isLt]

/-- A byte above the font after a reset: free in the reserved range under `RESET_ARBITRARY`, else 0. -/
theorem State.resetWith_mem_above_font {a : Nat} (ha : 80 ≤ a) :
    (State.resetWith p k).mem.read a =
      if p.resetArbitrary = true ∧ a < 0x200 then Config.resetMem k a else 0#8 := by
  rw [State.resetWith_mem, Memory.read_drawReserved, Memory.read_withFont, dif_neg ha.not_gt]
  simp only [ha, true_and]

theorem State.resetWith_reg (r : Reg) :
    (State.resetWith p k).reg r =
      if p.resetArbitrary = true then Config.resetV k r.val else 0#8 := by
  rw [State.reg, State.resetWith, State.resetFrom]
  split <;> simp

theorem State.resetWith_i_toNat :
    (State.resetWith p k).i.toNat =
      if p.resetArbitrary = true then (Config.resetI k).toNat else 0 := by
  rw [State.resetWith, State.resetFrom]
  split
  · exact BitVec.toNat_setWidth_of_le (by decide)
  · rfl

theorem State.resetWith_dt :
    (State.resetWith p k).dt = if p.resetArbitrary = true then Config.resetDt k else 0#8 := by
  rw [State.resetWith, State.resetFrom]

theorem State.resetWith_st :
    (State.resetWith p k).st = if p.resetArbitrary = true then Config.resetSt k else 0#8 := by
  rw [State.resetWith, State.resetFrom]

end

/-! ### The parametrised step -/

/-- Every instruction answers a next state: a check of its own that fails is a `raise`. -/
theorem exec_next (i : Instr) (s : State) : ∃ t, exec i s = .next t := by
  cases i <;> exact ⟨_, rfl⟩

section
variable {p : Params} {s : State}

/-- Up to 0xFFE the fetch answers the word at `PC`. -/
theorem State.fetch_eq_wordAtPc (hpc : s.pc.toNat ≤ 0xFFE) : s.fetch = .ok s.wordAtPc := by
  rw [State.fetch, if_neg hpc.not_gt, State.wordAtPc]

theorem State.runInstruction_of_decode_ok {i : Instr} (hpc : s.pc.toNat ≤ 0xFFE)
    (hi : decodeWord p.strictDecode s.wordAtPc = .ok i) :
    s.runInstruction p = exec i (s.setOp s.wordAtPc) := by
  simp only [State.runInstruction, State.fetch_eq_wordAtPc hpc, hi]

theorem State.runInstruction_of_decode_error {e : DecodeError} (hpc : s.pc.toNat ≤ 0xFFE)
    (he : decodeWord p.strictDecode s.wordAtPc = .error e) :
    s.runInstruction p = .next ((s.setOp s.wordAtPc).raise (.unknownOpcode s.wordAtPc)) := by
  simp only [State.runInstruction, State.fetch_eq_wordAtPc hpc, he]

/-- A step of a running machine with no quit pending is one instruction and what follows it. -/
theorem stepWith_running (hr : s.status = .running) (hq : s.quit = false) :
    stepWith p s = afterInstruction (s.beginStep.runInstruction p) := by
  simp [stepWith, State.sequence, hr, hq]

/-- The step when the word at `PC` decodes (30_encoding.md R84, third line). -/
theorem stepWith_of_decode_ok {i : Instr} (hr : s.status = .running) (hq : s.quit = false)
    (hpc : s.pc.toNat ≤ 0xFFE) (hi : decodeWord p.strictDecode s.wordAtPc = .ok i) :
    ∃ t, exec i { s with calls := [], op := s.wordAtPc } = .next t ∧
      stepWith p s = .next t.reportAudio.betweenSteps := by
  obtain ⟨t, ht⟩ := exec_next i (s.beginStep.setOp s.wordAtPc)
  have hrun : s.beginStep.runInstruction p = .next t :=
    (State.runInstruction_of_decode_ok (s := s.beginStep) hpc hi).trans ht
  exact ⟨t, ht, by rw [stepWith_running hr hq, hrun, afterInstruction_next]⟩

/-- The step when the word at `PC` does not decode (60_exceptions.md R137). -/
theorem stepWith_of_decode_error {e : DecodeError} (hr : s.status = .running) (hq : s.quit = false)
    (hpc : s.pc.toNat ≤ 0xFFE) (he : decodeWord p.strictDecode s.wordAtPc = .error e) :
    stepWith p s = .next ((s.beginStep.setOp s.wordAtPc).raise
      (.unknownOpcode s.wordAtPc)).reportAudio.betweenSteps := by
  have hrun : s.beginStep.runInstruction p =
      .next ((s.beginStep.setOp s.wordAtPc).raise (.unknownOpcode s.wordAtPc)) :=
    State.runInstruction_of_decode_error (s := s.beginStep) hpc he
  rw [stepWith_running hr hq, hrun, afterInstruction_next]

end

/-! ### The obligation -/

/-- Settles O60: a host's reset is `State.resetWith` at the draw after `s.draws`, whose fields are known
for any parameters, and a step branches on the decode under the given `STRICT_DECODE`. -/
theorem parametersAreArguments : Obligations.ParametersAreArguments := by
  intro p s
  rw [State.hostWith_reset]
  refine ⟨State.resetWith_mem_font p _, fun _ ha => State.resetWith_mem_above_font p _ ha,
    State.resetWith_reg p _, State.resetWith_i_toNat p _, State.resetWith_dt p _,
    State.resetWith_st p _, fun hr hq hpc => ⟨fun i hi => ?_, fun e he => ?_⟩⟩
  · exact stepWith_of_decode_ok hr hq hpc hi
  · exact ⟨_, stepWith_of_decode_error hr hq hpc he, by simp⟩

end Sys2Proof.Machine
end

section
/-! PROOFS. What each instruction answers (40_flow.md to 48_unimplemented.md), by whether its own check
fails (60_exceptions.md R143): the error taken, or the result of the access that can fail. -/

namespace Sys2Proof.Machine

variable {s : State}

/-! ### When the check of an instruction passes -/

theorem raises_ret_eq_none : raises s .ret = none ↔ s.sp.val ≠ 0 := by simp [raises]

theorem raises_call_eq_none {nnn : Addr} : raises s (.call nnn) = none ↔ s.sp.val < 16 := by
  have := s.sp.isLt
  rw [raises, (Option.some_ne_none _).ite_eq_right_iff]
  omega

theorem raises_drw_eq_none {x y : Reg} {n : Nibble} :
    raises s (.drw x y n) = none ↔ inBounds s.i n.toNat = true := by
  rw [raises, (Option.some_ne_none _).ite_eq_right_iff, inBounds_iff]
  omega

theorem raises_ldB_eq_none {x : Reg} : raises s (.ldB x) = none ↔ inBounds s.i 3 = true := by
  rw [raises, (Option.some_ne_none _).ite_eq_right_iff, inBounds_iff]
  omega

theorem raises_ldMemVx_eq_none {x : Reg} :
    raises s (.ldMemVx x) = none ↔ inBounds s.i (x.val + 1) = true := by
  rw [raises, (Option.some_ne_none _).ite_eq_right_iff, inBounds_iff]
  omega

theorem raises_ldVxMem_eq_none {x : Reg} :
    raises s (.ldVxMem x) = none ↔ inBounds s.i (x.val + 1) = true := raises_ldMemVx_eq_none (x := x)

theorem raises_skp_eq_none {x : Reg} : raises s (.skp x) = none ↔ (s.reg x).toNat ≤ 0xF := by
  simp [raises]

theorem raises_sknp_eq_none {x : Reg} : raises s (.sknp x) = none ↔ (s.reg x).toNat ≤ 0xF :=
  raises_skp_eq_none (x := x)

/-! ### The answer when it passes -/

theorem exec_ret_of_passes (h : raises s .ret = none) :
    exec .ret s = .next (State.setPc
      { s with sp := ⟨s.sp.val - 1, by omega⟩ }
      (s.stack[s.sp.val - 1]'(by have := raises_ret_eq_none.mp h; omega) + 2#16)) := by
  rw [exec, execRet, State.pop_ok (raises_ret_eq_none.mp h), except_map_ok, State.orRaise_ok]

theorem exec_call_of_passes {nnn : Addr} (h : raises s (.call nnn) = none) :
    exec (.call nnn) s = .next (State.setPc
      { s with
        stack := s.stack.set s.sp.val s.pc (raises_call_eq_none.mp h)
        sp := ⟨s.sp.val + 1, Nat.succ_lt_succ (raises_call_eq_none.mp h)⟩ }
      (addrOperand nnn)) := by
  rw [exec, execCall, State.push_ok _ (raises_call_eq_none.mp h), except_map_ok, State.orRaise_ok]

theorem exec_drw_of_passes {x y : Reg} {n : Nibble} (h : raises s (.drw x y n) = none) :
    exec (.drw x y n) s =
      .next (s.draw (s.mem.readBytes s.i.toNat n.toNat) (s.reg x) (s.reg y)).advance := by
  rw [exec, execDrw, State.memRead_ok (raises_drw_eq_none.mp h), except_map_ok, State.orRaise_ok]

theorem exec_ldB_of_passes {x : Reg} (h : raises s (.ldB x) = none) :
    exec (.ldB x) s = .next (State.advance
      { s with mem := s.mem.writeBytes s.i.toNat (bcdDigits (s.reg x)) }) := by
  rw [exec, execLdB, State.memWrite_ok (by simpa using raises_ldB_eq_none.mp h), except_map_ok,
    State.orRaise_ok]

theorem exec_ldMemVx_of_passes {x : Reg} (h : raises s (.ldMemVx x) = none) :
    exec (.ldMemVx x) s = .next (State.advance
      { s with mem := s.mem.writeBytes s.i.toNat (s.regsUpTo x) }) := by
  rw [exec, execLdMemVx, State.memWrite_ok (by simpa using raises_ldMemVx_eq_none.mp h),
    except_map_ok, State.orRaise_ok]

theorem exec_ldVxMem_of_passes {x : Reg} (h : raises s (.ldVxMem x) = none) :
    exec (.ldVxMem x) s =
      .next (s.loadRegs (s.mem.readBytes s.i.toNat (x.val + 1))).advance := by
  rw [exec, execLdVxMem, State.memRead_ok (raises_ldVxMem_eq_none.mp h), except_map_ok,
    State.orRaise_ok]

theorem exec_skp_of_passes {x : Reg} (h : raises s (.skp x) = none) :
    exec (.skp x) s = .next (s.skipIf (s.input.keys.getLsbD (s.reg x).toNat)) := by
  rw [exec, execSkp, State.isDown_ok (raises_skp_eq_none.mp h), except_map_ok, State.orRaise_ok]

theorem exec_sknp_of_passes {x : Reg} (h : raises s (.sknp x) = none) :
    exec (.sknp x) s = .next (s.skipIf (!s.input.keys.getLsbD (s.reg x).toNat)) := by
  rw [exec, execSknp, State.isDown_ok (raises_sknp_eq_none.mp h), except_map_ok, State.orRaise_ok]

/-- `LD Vx, K` with no key down holds the machine where it is. -/
theorem exec_ldVxK_of_no_key {x : Reg} (h : s.input.keys = 0#16) : exec (.ldVxK x) s = .next s := by
  rw [exec, execLdVxK, (anyPressed_none _ _).mpr h]

/-- `LD Vx, K` with some key down loads the one `any_pressed()` answers. -/
theorem exec_ldVxK_of_key {x : Reg} {k : Nat}
    (h : anyPressed s.input.keys s.input.pick = some k) :
    exec (.ldVxK x) s = .next (s.setReg x (BitVec.ofNat 8 k)).advance := by
  rw [exec, execLdVxK, h]

/-! ### The answer when it fails -/

/-- An instruction whose own check fails takes that error and does nothing else
(60_exceptions.md R140). -/
theorem exec_of_raises {i : Instr} {e : FatalError} (h : raises s i = some e) :
    exec i s = .next (s.raise e) := by
  cases i <;> simp only [raises, Option.ite_none_right_eq_some, Option.some.injEq, reduceCtorEq] at h
  case ret =>
    obtain ⟨hs, rfl⟩ := h
    rw [exec, execRet, State.pop_empty hs, except_map_error, State.orRaise_error]
  case call nnn =>
    obtain ⟨hs, rfl⟩ := h
    rw [exec, execCall, State.push_full _ hs, except_map_error, State.orRaise_error]
  case drw x y n =>
    obtain ⟨hs, rfl⟩ := h
    have hb : inBounds s.i n.toNat = false := by rw [← Bool.not_eq_true, inBounds_iff]; omega
    rw [exec, execDrw, State.memRead_error hb, except_map_error, State.orRaise_error]
  case ldB x =>
    obtain ⟨hs, rfl⟩ := h
    have hb : inBounds s.i (bcdDigits (s.reg x)).length = false := by
      rw [← Bool.not_eq_true, inBounds_iff, bcdDigits_length]; omega
    rw [exec, execLdB, State.memWrite_error hb, except_map_error, State.orRaise_error,
      bcdDigits_length]
  case ldMemVx x =>
    obtain ⟨hs, rfl⟩ := h
    have hb : inBounds s.i (s.regsUpTo x).length = false := by
      rw [← Bool.not_eq_true, inBounds_iff, State.regsUpTo_length]; omega
    rw [exec, execLdMemVx, State.memWrite_error hb, except_map_error, State.orRaise_error,
      State.regsUpTo_length]
  case ldVxMem x =>
    obtain ⟨hs, rfl⟩ := h
    have hb : inBounds s.i (x.val + 1) = false := by rw [← Bool.not_eq_true, inBounds_iff]; omega
    rw [exec, execLdVxMem, State.memRead_error hb, except_map_error, State.orRaise_error]
  case skp x =>
    obtain ⟨hs, rfl⟩ := h
    rw [exec, execSkp, State.isDown_error hs, except_map_error, State.orRaise_error]
  case sknp x =>
    obtain ⟨hs, rfl⟩ := h
    rw [exec, execSknp, State.isDown_error hs, except_map_error, State.orRaise_error]

end Sys2Proof.Machine
end

section
/-! PROOFS. The frame of every instruction (10_state.md R23, R22, R26 to R29, 20_memory.md R49): each
operation over the state stays inside a footprint that names what it writes, so an instruction does. -/

namespace Sys2Proof.Machine

/-! ### Each operation stays in a footprint that names what it writes -/

section
variable {f : Footprint} {s t : State}

theorem Frame.refl (f : Footprint) (s : State) : Frame f s s where
  regs _ _ := rfl
  index _ := rfl
  slots _ _ := rfl
  depth _ := rfl
  dt _ := rfl
  st _ := rfl
  fb _ := rfl
  calls _ := rfl
  status _ := rfl
  bytes _ _ := rfl
  op := rfl
  quit := rfl
  audio := rfl
  script := rfl
  draws := rfl

theorem Frame.setPc (h : Frame f s t) (w : Word) : Frame f s (t.setPc w) := { h with }

theorem Frame.setRegs (h : Frame f s t) {v : Vector Byte 16}
    (hv : ∀ r : Reg, f.regs r = false → v[r.val] = t.reg r) : Frame f s { t with v := v } :=
  { h with regs := fun r hr => (hv r hr).trans (h.regs r hr) }

theorem Frame.setReg (h : Frame f s t) {x : Reg} (hx : f.regs x = true) (b : Byte) :
    Frame f s (t.setReg x b) :=
  h.setRegs fun r hr => by
    have hne : r ≠ x := by rintro rfl; simp [hx] at hr
    exact (State.reg_setReg t x b r).trans (if_neg hne)

/-- A block load reaches the registers up to the number of its bytes. -/
theorem Frame.loadRegs (h : Frame f s t) {bytes : List Byte}
    (hx : ∀ r : Reg, r.val < bytes.length → f.regs r = true) : Frame f s (t.loadRegs bytes) := by
  rw [State.loadRegs]
  refine h.setRegs fun r hr => ?_
  have hlen : bytes.length ≤ r.val := by
    by_contra hlt
    simp [hx r (by omega)] at hr
  rw [Vector.getElem_ofFn, List.getD_eq_default _ _ hlen, State.reg]

theorem Frame.setIndex (h : Frame f s t) (hf : f.index = true) (w : Word) :
    Frame f s (t.setIndex w) := { h with index := by simp [hf] }

theorem Frame.raise (h : Frame f s t) (hf : f.status = true) (e : FatalError) :
    Frame f s (t.raise e) := { h with status := by simp [hf] }

theorem Frame.armDt (h : Frame f s t) (hf : f.dt = true) (b : Byte) : Frame f s (t.armDt b) :=
  { h with dt := by simp [hf] }

theorem Frame.armSt (h : Frame f s t) (hf : f.st = true) (b : Byte) : Frame f s (t.armSt b) :=
  { h with st := by simp [hf] }

theorem Frame.clearDisplay (h : Frame f s t) (hf : f.display = true) : Frame f s t.clearDisplay :=
  { h with fb := by simp [hf], calls := by simp [hf] }

theorem Frame.draw (h : Frame f s t) (hv : f.regs vf = true) (hf : f.display = true)
    (rows : List Byte) (cx cy : Byte) : Frame f s (t.draw rows cx cy) :=
  { h with
    regs := (h.setReg hv (flagByte (t.fb.blit rows cx cy).2)).regs
    fb := by simp [hf]
    calls := by simp [hf] }

theorem Frame.setDepth (h : Frame f s t) (hf : f.depth = true) (d : Fin 17) :
    Frame f s { t with sp := d } := { h with depth := by simp [hf] }

theorem Frame.setSlot (h : Frame f s t) {k : Fin 16} (hk : f.slots k = true) (w : Word) :
    Frame f s { t with stack := t.stack.set k.val w } :=
  { h with
    slots := fun j hj => by
      have hne : k.val ≠ j.val := fun e => by rw [Fin.ext e, hj] at hk; cases hk
      rw [Vector.getElem_set_ne _ _ hne, h.slots j hj] }

theorem Frame.writeBytes (h : Frame f s t) {a : Nat} {bytes : List Byte}
    (hb : ∀ b, a ≤ b → b < a + bytes.length → f.bytes b = true) :
    Frame f s { t with mem := t.mem.writeBytes a bytes } :=
  { h with
    bytes := fun b hf => by
      have hout : ¬(a ≤ b ∧ b < a + bytes.length) := fun ⟨hlo, hhi⟩ => by simp [hb b hlo hhi] at hf
      rw [Memory.read_writeBytes, if_neg hout, h.bytes b hf] }

end

/-! ### What the footprints name -/

theorem only_self (x : Reg) : only x x = true := beq_self_eq_true x

theorem withFlag_self (x : Reg) : withFlag x x = true := by simp [withFlag]

theorem withFlag_vf (x : Reg) : withFlag x vf = true := by simp [withFlag]

theorem span_eq_true {a n b : Nat} (hlo : a ≤ b) (hhi : b < a + n) : span a n b = true := by
  simp [span, hlo, hhi]

section
variable {s t : State}

/-- A result to `V[x]` and a flag to `VF` stay in the footprint of the flag instructions. -/
theorem frame_setResultFlag (x : Reg) (b : Byte) (c : Bool) :
    Frame { regs := withFlag x } s (s.setResultFlag x b c) :=
  ((Frame.refl _ s).setReg (withFlag_self x) b).setReg (withFlag_vf x) (flagByte c)

theorem frame_setReg (x : Reg) (b : Byte) : Frame { regs := only x } s (s.setReg x b) :=
  (Frame.refl _ s).setReg (only_self x) b

/-- A store at `I` stays in the span of its bytes. -/
theorem frame_store (bytes : List Byte) :
    Frame { bytes := span s.i.toNat bytes.length } s
      { s with mem := s.mem.writeBytes s.i.toNat bytes } :=
  (Frame.refl _ s).writeBytes fun _ => span_eq_true

/-- An instruction that does not raise writes inside its footprint. -/
theorem exec_frame {i : Instr} (hr : raises s i = none) (h : exec i s = .next t) :
    Frame (footprint s i) s t := by
  cases i with
  | cls => cases h; exact ((Frame.refl _ s).clearDisplay rfl).setPc _
  | ret =>
    cases (exec_ret_of_passes hr).symm.trans h
    exact ((Frame.refl _ s).setDepth rfl _).setPc _
  | call nnn =>
    cases (exec_call_of_passes hr).symm.trans h
    have hsp := raises_call_eq_none.mp hr
    exact (((Frame.refl _ s).setSlot (k := ⟨s.sp.val, hsp⟩) (beq_self_eq_true _) s.pc).setDepth
      rfl _).setPc _
  | sys | jp | jpV0 | seByte | sneByte | seReg | sneReg => cases h; exact (Frame.refl _ s).setPc _
  | ldByte | addByte | ldReg | orReg | andReg | xorReg | rnd | ldVxDt =>
    cases h; exact (frame_setReg _ _).setPc _
  | addReg | subReg | shrReg | subnReg | shlReg => cases h; exact (frame_setResultFlag _ _ _).setPc _
  | ldI | ldF => cases h; exact ((Frame.refl _ s).setIndex rfl _).setPc _
  | addI x => cases h; exact (((Frame.refl _ s).setIndex rfl _).setReg (only_self vf) _).setPc _
  | drw x y n =>
    cases (exec_drw_of_passes hr).symm.trans h
    exact ((Frame.refl _ s).draw (only_self vf) rfl _ _ _).setPc _
  | skp x => cases (exec_skp_of_passes hr).symm.trans h; exact (Frame.refl _ s).setPc _
  | sknp x => cases (exec_sknp_of_passes hr).symm.trans h; exact (Frame.refl _ s).setPc _
  | ldVxK x =>
    cases hk : anyPressed s.input.keys s.input.pick with
    | none =>
      cases (exec_ldVxK_of_no_key ((anyPressed_none _ _).mp hk)).symm.trans h
      exact Frame.refl _ s
    | some k => cases (exec_ldVxK_of_key hk).symm.trans h; exact (frame_setReg x _).setPc _
  | ldDtVx x => cases h; exact ((Frame.refl _ s).armDt rfl _).setPc _
  | ldStVx x => cases h; exact ((Frame.refl _ s).armSt rfl _).setPc _
  | ldB x =>
    cases (exec_ldB_of_passes hr).symm.trans h
    exact (frame_store (bcdDigits (s.reg x))).setPc _
  | ldMemVx x =>
    cases (exec_ldMemVx_of_passes hr).symm.trans h
    have hframe := (frame_store (s := s) (s.regsUpTo x)).setPc (s.pc + 2#16)
    rwa [State.regsUpTo_length] at hframe
  | ldVxMem x =>
    cases (exec_ldVxMem_of_passes hr).symm.trans h
    refine ((Frame.refl _ s).loadRegs fun r hlt => ?_).setPc _
    rw [Memory.readBytes_length] at hlt
    exact decide_eq_true (Fin.le_def.mpr (by omega))

end

/-- Settles O18: an instruction that does not raise stays in its footprint, operation by operation, and
one that raises answers the state with the error taken. -/
theorem everyInstructionStaysInItsFootprint : Obligations.EveryInstructionStaysInItsFootprint := by
  intro i s t h
  refine ⟨fun hr => exec_frame hr h, fun hr => ?_⟩
  obtain ⟨e, he⟩ := Option.ne_none_iff_exists'.mp hr
  cases (exec_of_raises he).symm.trans h
  exact ⟨rfl, (Frame.refl _ s).raise rfl e⟩

end Sys2Proof.Machine
end

section
/-! PROOFS. The next `PC` of every instruction (10_state.md R24, 30_encoding.md R79, R80), and how far a
fetched instruction can take it (R25). -/

namespace Sys2Proof.Machine

theorem addrOperand_toNat (nnn : Addr) : (addrOperand nnn).toNat = nnn.toNat :=
  BitVec.toNat_setWidth_of_le (by decide)

theorem byteOperand_toNat (b : Byte) : (byteOperand b).toNat = b.toNat :=
  BitVec.toNat_setWidth_of_le (by decide)

/-- The sum of `JP V0` never wraps: it is at most 0xFFF + 0xFF. -/
theorem addrOperand_add_byteOperand_toNat (nnn : Addr) (b : Byte) :
    (addrOperand nnn + byteOperand b).toNat = nnn.toNat + b.toNat := by
  rw [BitVec.toNat_add, addrOperand_toNat, byteOperand_toNat]
  omega

/-- `LD Vx, K` advances exactly when some key is down. -/
theorem exec_ldVxK_pc (x : Reg) (s : State) : ∃ t, exec (.ldVxK x) s = .next t ∧
    t.pc = if s.input.keys = 0#16 then s.pc else s.pc + 2#16 := by
  by_cases hkeys : s.input.keys = 0#16
  · exact ⟨s, exec_ldVxK_of_no_key hkeys, (if_pos hkeys).symm⟩
  · obtain ⟨k, hk⟩ := Option.ne_none_iff_exists'.mp (mt (anyPressed_none _ s.input.pick).mp hkeys)
    exact ⟨_, exec_ldVxK_of_key hk, (if_neg hkeys).symm⟩

/-- Settles O20, by what each instruction answers when its own check passes. -/
theorem nextPcOfEveryInstruction : Obligations.NextPcOfEveryInstruction := by
  intro i s hr
  cases i with
  | jp nnn => exact ⟨_, rfl, addrOperand_toNat nnn⟩
  | call nnn => exact ⟨_, exec_call_of_passes hr, addrOperand_toNat nnn⟩
  | jpV0 nnn => exact ⟨_, rfl, addrOperand_add_byteOperand_toNat nnn (s.reg 0)⟩
  | ret =>
    refine ⟨_, exec_ret_of_passes hr, fun j hj => ?_⟩
    simp [← hj]
  | seByte | seReg => exact ⟨_, rfl, by simp⟩
  | sneByte | sneReg => exact ⟨_, rfl, by simp⟩
  | skp x => exact ⟨_, exec_skp_of_passes hr, rfl⟩
  | sknp x =>
    refine ⟨_, exec_sknp_of_passes hr, ?_⟩
    cases hdown : s.input.keys.getLsbD (s.reg x).toNat <;> simp [hdown]
  | ldVxK x => exact exec_ldVxK_pc x s
  | drw => exact ⟨_, exec_drw_of_passes hr, rfl⟩
  | ldB => exact ⟨_, exec_ldB_of_passes hr, rfl⟩
  | ldMemVx => exact ⟨_, exec_ldMemVx_of_passes hr, rfl⟩
  | ldVxMem => exact ⟨_, exec_ldVxMem_of_passes hr, rfl⟩
  | _ => exact ⟨_, rfl, rfl⟩

/-- A fetched instruction leaves `PC` at most 0x10FE, what `JP V0` reaches (10_state.md R25), when the
live stack entries are addresses an instruction can be fetched from. -/
theorem exec_pc_le {i : Instr} {s t : State} (hpc : s.pc.toNat ≤ 0xFFE)
    (hstack : ∀ j : Fin 16, j.val < s.sp.val → s.stack[j.val].toNat ≤ 0xFFE)
    (h : exec i s = .next t) : t.pc.toNat ≤ 0x10FE := by
  cases hr : raises s i with
  | some e =>
    cases (exec_of_raises hr).symm.trans h
    exact hpc.trans (by decide)
  | none =>
    obtain ⟨u, hu, hnext⟩ := nextPcOfEveryInstruction i s hr
    cases hu.symm.trans h
    have hplus2 : ∀ w : Word, w.toNat ≤ 0xFFE → (w + 2#16).toNat ≤ 0x10FE := by bv_omega
    have hplus4 : (s.pc + 4#16).toNat ≤ 0x10FE := by bv_omega
    cases i with
    | jp nnn | call nnn => simp only at hnext; omega
    | jpV0 nnn => simp only at hnext; omega
    | ret =>
      have hsp := raises_ret_eq_none.mp hr
      have htop : s.sp.val - 1 < 16 := by omega
      rw [hnext ⟨s.sp.val - 1, htop⟩ (Nat.succ_pred hsp)]
      exact hplus2 _ (hstack ⟨s.sp.val - 1, htop⟩ (Nat.pred_lt hsp))
    | seByte | sneByte | seReg | sneReg | skp | sknp =>
      rw [hnext]
      split <;> simp only [hplus4, hplus2 _ hpc]
    | ldVxK =>
      rw [hnext]
      split
      · exact hpc.trans (by decide)
      · exact hplus2 _ hpc
    | _ => exact hnext ▸ hplus2 _ hpc

end Sys2Proof.Machine
end

section
/-! PROOFS. The invariant (10_state.md R25, R26, 20_memory.md R45, 40_flow.md R92): what a step does to
`I`, to the call stack and to `MEM`, and that each of the four clauses is kept. -/

namespace Sys2Proof.Machine

section
variable {i : Instr} {s t : State}

/-! ### What an instruction does to `I` -/

/-- `I` is kept, or written by one of three instructions (10_state.md R26). -/
theorem exec_index_cases (h : exec i s = .next t) :
    t.i = s.i ∨ (∃ nnn, i = .ldI nnn ∧ t.i = addrOperand nnn) ∨
      (∃ x, i = .addI x ∧ t.i = indexSum s.i (s.reg x)) ∨
      (∃ x, i = .ldF x ∧ t.i = glyphAddr (s.reg x)) := by
  cases hr : raises s i with
  | some e => cases (exec_of_raises hr).symm.trans h; exact Or.inl rfl
  | none =>
    have hkept := (exec_frame hr h).index
    cases i with
    | ldI nnn => cases h; exact Or.inr (Or.inl ⟨nnn, rfl, rfl⟩)
    | addI x => cases h; exact Or.inr (Or.inr (Or.inl ⟨x, rfl, rfl⟩))
    | ldF x => cases h; exact Or.inr (Or.inr (Or.inr ⟨x, rfl, rfl⟩))
    | _ => exact Or.inl (hkept rfl)

theorem indexSum_toNat (w : Word) (b : Byte) :
    (indexSum w b).toNat = (w.toNat + b.toNat) % 0x1000 := by
  have hmask : (0x0FFF#16).toNat = 2 ^ 12 - 1 := rfl
  rw [indexSum, BitVec.toNat_and, hmask, Nat.and_two_pow_sub_one_eq_mod, BitVec.toNat_add,
    byteOperand_toNat]
  omega

theorem glyphAddr_toNat (b : Byte) : (glyphAddr b).toNat = b.toNat * 5 := by
  rw [glyphAddr, BitVec.toNat_mul, BitVec.toNat_setWidth_of_le (by decide), BitVec.toNat_ofNat]
  omega

/-- What the three instructions write has 12 bits, so `I` keeps to them. -/
theorem exec_index_le (hi : s.i.toNat ≤ 0xFFF) (h : exec i s = .next t) : t.i.toNat ≤ 0xFFF := by
  obtain heq | ⟨nnn, -, heq⟩ | ⟨x, -, heq⟩ | ⟨x, -, heq⟩ := exec_index_cases h
  · rwa [heq]
  · rw [heq, addrOperand_toNat]; omega
  · rw [heq, indexSum_toNat]; omega
  · rw [heq, glyphAddr_toNat]; omega

/-! ### What an instruction does to the call stack -/

theorem Frame.stack_eq {f : Footprint} (hf : Frame f s t) (hslots : ∀ j, f.slots j = false) :
    t.stack = s.stack :=
  Vector.ext fun j hj => hf.slots ⟨j, hj⟩ (hslots _)

/-- The stack is kept, or `CALL` pushes its own address, or `RET` drops the top entry (10_state.md
R27). -/
theorem exec_stack_cases (h : exec i s = .next t) :
    (t.stack = s.stack ∧ t.sp = s.sp) ∨
      (∃ (nnn : Addr) (hsp : s.sp.val < 16), i = .call nnn ∧
        t.stack = s.stack.set s.sp.val s.pc hsp ∧ t.sp.val = s.sp.val + 1) ∨
      (i = .ret ∧ t.stack = s.stack ∧ t.sp.val + 1 = s.sp.val) := by
  cases hr : raises s i with
  | some e => cases (exec_of_raises hr).symm.trans h; exact Or.inl ⟨rfl, rfl⟩
  | none =>
    have hf := exec_frame hr h
    cases i with
    | call nnn =>
      cases (exec_call_of_passes hr).symm.trans h
      exact Or.inr (Or.inl ⟨nnn, raises_call_eq_none.mp hr, rfl, rfl, rfl⟩)
    | ret =>
      cases (exec_ret_of_passes hr).symm.trans h
      exact Or.inr (Or.inr ⟨rfl, rfl, Nat.succ_pred (raises_ret_eq_none.mp hr)⟩)
    | _ => exact Or.inl ⟨hf.stack_eq fun _ => rfl, hf.depth rfl⟩

/-- Live entries stay addresses an instruction can be fetched from: `CALL` pushes such a one. -/
theorem exec_live_stack_le (hpc : s.pc.toNat ≤ 0xFFE)
    (hstack : ∀ j : Fin 16, j.val < s.sp.val → s.stack[j.val].toNat ≤ 0xFFE)
    (h : exec i s = .next t) :
    ∀ j : Fin 16, j.val < t.sp.val → t.stack[j.val].toNat ≤ 0xFFE := by
  intro j hj
  obtain ⟨hst, hsp⟩ | ⟨nnn, hlt, -, hst, hsp⟩ | ⟨-, hst, hsp⟩ := exec_stack_cases h
  · simpa only [hst] using hstack j (hsp ▸ hj)
  · simp only [hst, Vector.getElem_set]
    split
    · exact hpc
    · exact hstack j (by omega)
  · simpa only [hst] using hstack j (by omega)

/-! ### What an instruction does to `MEM` -/

/-- `MEM` is kept, or takes a run of bytes from `I` on that fits (20_memory.md R49, R50). -/
theorem exec_mem_cases (h : exec i s = .next t) :
    t.mem = s.mem ∨ ∃ bytes : List Byte, s.i.toNat + bytes.length ≤ 4096 ∧
      t.mem = s.mem.writeBytes s.i.toNat bytes := by
  cases hr : raises s i with
  | some e => cases (exec_of_raises hr).symm.trans h; exact Or.inl rfl
  | none =>
    cases i with
    | ldB x =>
      cases (exec_ldB_of_passes hr).symm.trans h
      have hfits := (inBounds_iff s.i 3).mp (raises_ldB_eq_none.mp hr)
      exact Or.inr ⟨bcdDigits (s.reg x), hfits.resolve_left (by decide), rfl⟩
    | ldMemVx x =>
      cases (exec_ldMemVx_of_passes hr).symm.trans h
      have hfits := (inBounds_iff s.i (x.val + 1)).mp (raises_ldMemVx_eq_none.mp hr)
      refine Or.inr ⟨s.regsUpTo x, ?_, rfl⟩
      rw [State.regsUpTo_length]
      exact hfits.resolve_left (Nat.succ_ne_zero _)
    | ret => cases (exec_ret_of_passes hr).symm.trans h; exact Or.inl rfl
    | call => cases (exec_call_of_passes hr).symm.trans h; exact Or.inl rfl
    | drw => cases (exec_drw_of_passes hr).symm.trans h; exact Or.inl rfl
    | skp => cases (exec_skp_of_passes hr).symm.trans h; exact Or.inl rfl
    | sknp => cases (exec_sknp_of_passes hr).symm.trans h; exact Or.inl rfl
    | ldVxMem => cases (exec_ldVxMem_of_passes hr).symm.trans h; exact Or.inl rfl
    | ldVxK x =>
      cases hk : anyPressed s.input.keys s.input.pick with
      | none =>
        cases (exec_ldVxK_of_no_key ((anyPressed_none _ _).mp hk)).symm.trans h
        exact Or.inl rfl
      | some k => cases (exec_ldVxK_of_key hk).symm.trans h; exact Or.inl rfl
    | _ => cases h; exact Or.inl rfl

theorem exec_mem_wf (hwf : s.mem.wf = true) (h : exec i s = .next t) : t.mem.wf = true := by
  obtain heq | ⟨bytes, hfits, heq⟩ := exec_mem_cases h
  · rwa [heq]
  · rw [heq]
    exact Memory.wf_writeBytes (Or.inr hfits) hwf

end

/-! ### What a step can do -/

section
variable {s t : State}

/-- A step that answers a next state runs no instruction (the quit flag is observed, the fetch or the
decode fails) and keeps the machine but for `STATE`, `OP` and the model's own fields, or it runs the
instruction that the word at `PC` decodes to. -/
theorem step_cases (h : step s = .next t) :
    t = { s with status := t.status, op := t.op, calls := t.calls, audio := t.audio,
                 script := t.script, draws := t.draws } ∨
      ∃ i u, s.pc.toNat ≤ 0xFFE ∧ decodeWord Config.strictDecode s.wordAtPc = .ok i ∧
        exec i (s.beginStep.setOp s.wordAtPc) = .next u ∧ t = u.reportAudio.betweenSteps := by
  obtain ⟨-, ⟨-, rfl⟩ | ⟨-, u, hu, rfl⟩⟩ := stepWith_cases h
  · exact Or.inl rfl
  · obtain ⟨-, rfl⟩ | ⟨w, hpc, rfl, ⟨-, rfl⟩ | ⟨i, hi, hexec⟩⟩ := State.runInstruction_cases hu
    · exact Or.inl rfl
    · exact Or.inl rfl
    · exact Or.inr ⟨i, u, hpc, hi, hexec, rfl⟩

/-- The invariant reads five fields. -/
theorem State.Inv.congr (hs : s.Inv) (hmem : t.mem = s.mem) (hi : t.i = s.i) (hpc : t.pc = s.pc)
    (hstack : t.stack = s.stack) (hsp : t.sp = s.sp) : t.Inv where
  mem := hmem ▸ hs.mem
  index := hi ▸ hs.index
  pc := hpc ▸ hs.pc
  stack := by simpa only [hstack, hsp] using hs.stack

/-- A fetched instruction keeps the invariant. -/
theorem exec_keeps_inv {i : Instr} (hs : s.Inv) (hpc : s.pc.toNat ≤ 0xFFE)
    (h : exec i s = .next t) : t.Inv where
  mem := exec_mem_wf hs.mem h
  index := exec_index_le hs.index h
  pc := exec_pc_le hpc hs.stack h
  stack := exec_live_stack_le hpc hs.stack h

end

/-! ### The obligations -/

/-- Settles O16: a step that runs no instruction keeps what the invariant reads, and an instruction that
was fetched keeps each clause. -/
theorem stepKeepsInvariant : Obligations.StepKeepsInvariant := by
  intro s t hs h
  obtain hkept | ⟨i, u, hpc, -, hexec, rfl⟩ := step_cases h
  · rw [hkept]
    exact hs.congr rfl rfl rfl rfl rfl
  · have hbegun : (s.beginStep.setOp s.wordAtPc).Inv := hs.congr rfl rfl rfl rfl rfl
    have hu : u.Inv := exec_keeps_inv hbegun hpc hexec
    exact hu.congr (by simp) (by simp) (by simp) (by simp) (by simp)

/-- Settles O22, by what an instruction does to `I` (`exec_index_cases`). -/
theorem onlyIndexInstructionsWriteIndex : Obligations.OnlyIndexInstructionsWriteIndex := by
  intro s t h
  obtain hkept | ⟨i, u, -, hdec, hexec, rfl⟩ := step_cases h
  · rw [hkept]
    exact ⟨Or.inl rfl, id⟩
  · rw [State.betweenSteps_i, State.reportAudio_i]
    refine ⟨?_, fun hi => exec_index_le (s := s.beginStep.setOp s.wordAtPc) hi hexec⟩
    obtain heq | ⟨nnn, rfl, heq⟩ | ⟨x, rfl, heq⟩ | ⟨x, rfl, heq⟩ := exec_index_cases hexec
    · exact Or.inl heq
    · exact Or.inr (Or.inl ⟨nnn, hdec, heq ▸ addrOperand_toNat nnn⟩)
    · exact Or.inr (Or.inr (Or.inl ⟨x, hdec, heq ▸ indexSum_toNat s.i (s.reg x)⟩))
    · exact Or.inr (Or.inr (Or.inr ⟨x, hdec, heq ▸ glyphAddr_toNat (s.reg x)⟩))

/-- Settles O23, by what an instruction does to the call stack (`exec_stack_cases`). -/
theorem onlyCallAndRetTouchTheStack : Obligations.OnlyCallAndRetTouchTheStack := by
  intro s t h
  obtain hkept | ⟨i, u, -, hdec, hexec, rfl⟩ := step_cases h
  · rw [hkept]
    exact Or.inl ⟨rfl, rfl⟩
  · simp only [State.betweenSteps_stack, State.betweenSteps_sp, State.reportAudio_stack,
      State.reportAudio_sp]
    obtain hsame | ⟨nnn, -, rfl, -, hsp⟩ | ⟨rfl, hst, hsp⟩ := exec_stack_cases hexec
    · exact Or.inl hsame
    · exact Or.inr (Or.inl ⟨nnn, hdec, hsp⟩)
    · exact Or.inr (Or.inr ⟨hdec, hst, hsp⟩)

end Sys2Proof.Machine
end

section
/-! PROOFS. What the instructions do not read (10_state.md R29, R37, R39, 30_encoding.md R66): two runs of
one instruction from states that differ only in `ST` and in the scripted inputs. -/

namespace Sys2Proof.Machine

section
variable {i : Instr} {s t : State} {b : Byte} {l : List Input}

/-- The same state with another `ST` and other scripted inputs. -/
def State.withUnread (s : State) (b : Byte) (l : List Input) : State :=
  { s with st := b, script := l }

/-- Two lists of scripted inputs agree on what an instruction reads of the outside: the keys and the
choice among them for `SKP`, `SKNP` and `LD Vx, K`, the random byte for `RND`. -/
def InputsAgree (i : Instr) (a b : Input) : Prop :=
  ((∃ x, i = .skp x ∨ i = .sknp x ∨ i = .ldVxK x) → a.keys = b.keys ∧ a.pick = b.pick) ∧
    ((∃ x kk, i = .rnd x kk) → a.rand = b.rand)

/-- An instruction's own check reads neither. -/
theorem raises_withUnread (i : Instr) (s : State) (b : Byte) (l : List Input) :
    raises (s.withUnread b l) i = raises s i := by
  cases i <;> rfl

/-- An instruction run with another `ST` and other inputs, those it reads being the same, ends as
before but for `ST` and the script; and `ST` ends the same if it began the same. -/
theorem exec_withUnread (hin : InputsAgree i s.input (s.withUnread b l).input)
    (h : exec i s = .next t) :
    ∃ c, exec i (s.withUnread b l) = .next (t.withUnread c l) ∧ (b = s.st → c = t.st) := by
  have hr' := raises_withUnread i s b l
  cases hr : raises s i with
  | some e =>
    cases (exec_of_raises hr).symm.trans h
    exact ⟨b, exec_of_raises (hr'.trans hr), id⟩
  | none =>
    rw [hr] at hr'
    obtain ⟨hkeys, hrand⟩ := hin
    cases i with
    | ret => cases (exec_ret_of_passes hr).symm.trans h; exact ⟨b, exec_ret_of_passes hr', id⟩
    | call => cases (exec_call_of_passes hr).symm.trans h; exact ⟨b, exec_call_of_passes hr', id⟩
    | drw => cases (exec_drw_of_passes hr).symm.trans h; exact ⟨b, exec_drw_of_passes hr', id⟩
    | ldB => cases (exec_ldB_of_passes hr).symm.trans h; exact ⟨b, exec_ldB_of_passes hr', id⟩
    | ldMemVx =>
      cases (exec_ldMemVx_of_passes hr).symm.trans h
      exact ⟨b, exec_ldMemVx_of_passes hr', id⟩
    | ldVxMem =>
      cases (exec_ldVxMem_of_passes hr).symm.trans h
      exact ⟨b, exec_ldVxMem_of_passes hr', id⟩
    | skp x =>
      cases (exec_skp_of_passes hr).symm.trans h
      rw [(hkeys ⟨x, Or.inl rfl⟩).1]
      exact ⟨b, exec_skp_of_passes hr', id⟩
    | sknp x =>
      cases (exec_sknp_of_passes hr).symm.trans h
      rw [(hkeys ⟨x, Or.inr (Or.inl rfl)⟩).1]
      exact ⟨b, exec_sknp_of_passes hr', id⟩
    | ldVxK x =>
      obtain ⟨hk, hp⟩ := hkeys ⟨x, Or.inr (Or.inr rfl)⟩
      cases hkey : anyPressed s.input.keys s.input.pick with
      | none =>
        have hnone := (anyPressed_none _ _).mp hkey
        cases (exec_ldVxK_of_no_key hnone).symm.trans h
        exact ⟨b, exec_ldVxK_of_no_key (hk ▸ hnone), id⟩
      | some k =>
        cases (exec_ldVxK_of_key hkey).symm.trans h
        exact ⟨b, exec_ldVxK_of_key (hk ▸ hp ▸ hkey), id⟩
    | rnd x kk =>
      cases h
      rw [hrand ⟨x, kk, rfl⟩]
      exact ⟨b, rfl, id⟩
    | ldStVx x => cases h; exact ⟨s.reg x, rfl, fun _ => rfl⟩
    | _ => cases h; exact ⟨b, rfl, id⟩

/-- No instruction writes the script: it lies outside every footprint. -/
theorem exec_script (h : exec i s = .next t) : t.script = s.script := by
  obtain ⟨hpasses, hraises⟩ := everyInstructionStaysInItsFootprint i s t h
  by_cases hr : raises s i = none
  · exact (hpasses hr).script
  · exact (hraises hr).2.script

end

/-- Settles O25: the second run is the first with another script, from which each instruction takes only
what it names. -/
theorem outsideInputsReadOnlyByTheirInstructions :
    Obligations.OutsideInputsReadOnlyByTheirInstructions := by
  intro i s t a b hkeys hrand h
  obtain ⟨c, hc, hst⟩ := exec_withUnread (b := s.st) (l := [b]) ⟨hkeys, hrand⟩ h
  cases hst rfl
  exact hc

/-- Settles O26: the second run is the first with another `ST`, which no instruction reads. -/
theorem noInstructionReadsSoundTimer : Obligations.NoInstructionReadsSoundTimer := by
  intro i s t b h
  obtain ⟨c, hc, -⟩ := exec_withUnread (b := b) (l := s.script) ⟨fun _ => ⟨rfl, rfl⟩, fun _ => rfl⟩ h
  exact ⟨_, hc, by rw [← exec_script h]; rfl⟩

end Sys2Proof.Machine
end

section
/-! PROOFS. The ends of a run (10_state.md R34, R42, 60_exceptions.md R150, R152): what a reset leaves, that
it satisfies the invariant, and which moves a machine that has ended, or is running, answers to. -/

namespace Sys2Proof.Machine

/-! ### Reset -/

/-- A reset byte above the font is 0, as the font has 80 bytes. -/
theorem resetByte_eq (a : Nat) : resetByte a = if a < 80 then Config.font.getD a 0#8 else 0#8 := by
  rw [resetByte]
  split
  · rfl
  · rename_i ha
    have hlen : Config.font.length = 80 := rfl
    exact List.getD_eq_default _ _ (by omega)

/-- The host's RESET leaves the reset state from every state, but for the model's own inputs. -/
theorem State.host_reset (s : State) :
    s.host .reset = { State.reset with script := s.script, draws := s.draws + 1 } := by
  rw [State.host, State.hostWith_reset, State.resetWith_params]

/-- Settles O7: each register by its value in `State.reset`, memory as what an unlisted byte reads. -/
theorem resetValues : Obligations.ResetValues := by
  refine ⟨rfl, rfl, rfl, rfl, rfl, rfl, rfl, rfl, rfl, ?_, ?_, Grid.pixel_blank, resetByte_eq,
    State.host_reset⟩
  · exact fun r => Vector.getElem_replicate r.isLt
  · exact fun j => Vector.getElem_replicate j.isLt

/-- A reset over any memory in canonical form satisfies the invariant: the free `I` has 12 bits and no
stack entry is live. -/
theorem State.resetFrom_inv {m : Memory} (hm : m.wf = true) (arbitrary : Bool) (k : Nat) :
    (State.resetFrom m arbitrary k).Inv where
  mem := Memory.wf_drawReserved arbitrary k hm
  index := by
    rw [State.resetFrom]
    split
    · rw [BitVec.toNat_setWidth_of_le (by decide)]; omega
    · exact Nat.zero_le _
  pc := show (BitVec.ofNat 16 progStart).toNat ≤ 0x10FE by decide
  stack := fun j hj => absurd hj (Nat.not_lt_zero _)

/-- Settles O8: every reset is one over a memory in canonical form. -/
theorem resetSatisfiesInvariant : Obligations.ResetSatisfiesInvariant :=
  ⟨State.resetFrom_inv rfl _ 0, fun p k => State.resetFrom_inv (Memory.wf_withFont p.font) _ k⟩

/-! ### A machine that has ended -/

section
variable {s : State}

theorem step_of_halted {e : FatalError} (h : s.status = .halted e) : step s = .fault (.fatal e) := by
  rw [step, stepWith, State.sequence, h]

theorem step_of_stopped (h : s.status = .stopped) : step s = .refused .stopped := by
  rw [step, stepWith, State.sequence, h]

theorem State.ticksDt_of_ended (h : s.status ≠ .running) (n : Nat) : s.ticksDt n = s := by
  rw [State.ticksDt, if_neg h]

theorem State.ticksSt_of_ended (h : s.status ≠ .running) (n : Nat) : s.ticksSt n = s := by
  rw [State.ticksSt, if_neg h]

end

/-- Settles O13: the step, the ticks and the load each look at `STATE` first, and RESET does not. -/
theorem endedMachineTakesNoStep : Obligations.EndedMachineTakesNoStep := by
  intro s
  refine ⟨fun e => step_of_halted, step_of_stopped, fun hended => ⟨?_, ?_, fun rom => ?_, rfl, ?_⟩⟩
  · exact State.ticksDt_of_ended hended 1
  · exact State.ticksSt_of_ended hended 1
  · exact State.hostLoad_ended s rom hended
  · rw [State.host_reset]; rfl

/-! ### One tick -/

/-- One tick takes 1 off a timer above 0. -/
theorem countdown_one (t : Byte) : countdown 1 t = if 0 < t.toNat then t - 1#8 else t := by
  apply BitVec.eq_of_toNat_eq
  rw [countdown_toNat]
  split <;> bv_omega

/-- Settles O55: a tick of a running machine is one count of its own timer. -/
theorem tickTakesOneOff : Obligations.TickTakesOneOff := by
  intro s hrunning
  rw [← countdown_one, ← countdown_one]
  exact ⟨if_pos hrunning, if_pos hrunning⟩

end Sys2Proof.Machine
end

section
/-! PROOFS. Memory (20_memory.md R45 to R49, R58): the fetched word, which step can change a byte, and what
a fetch reads after a store. -/

namespace Sys2Proof.Machine

/-! ### Which byte an instruction can change -/

section
variable {i : Instr} {s t : State} {a : Nat}

theorem span_eq_true_iff {n b : Nat} : span a n b = true ↔ a ≤ b ∧ b < a + n := by simp [span]

/-- The footprint of an instruction names a byte of `MEM` only for the two stores (20_memory.md R49). -/
theorem footprint_bytes_cases (h : (footprint s i).bytes a = true) :
    ∃ x, (i = .ldB x ∧ s.i.toNat ≤ a ∧ a < s.i.toNat + 3) ∨
      (i = .ldMemVx x ∧ s.i.toNat ≤ a ∧ a ≤ s.i.toNat + x.val) := by
  cases i with
  | ldB x => exact ⟨x, Or.inl ⟨rfl, span_eq_true_iff.mp h⟩⟩
  | ldMemVx x =>
    obtain ⟨hlo, hhi⟩ := span_eq_true_iff.mp h
    exact ⟨x, Or.inr ⟨rfl, hlo, Nat.le_of_lt_succ hhi⟩⟩
  | _ => exact absurd h Bool.false_ne_true

/-- A byte that an instruction changes lies in its footprint; one that raises changes none. -/
theorem exec_changed_byte (h : exec i s = .next t) (hne : t.mem.read a ≠ s.mem.read a) :
    (footprint s i).bytes a = true := by
  obtain ⟨hpasses, hraises⟩ := everyInstructionStaysInItsFootprint i s t h
  by_cases hr : raises s i = none
  · exact Bool.of_not_eq_false fun hout => hne ((hpasses hr).bytes a hout)
  · exact absurd ((hraises hr).2.bytes a rfl) hne

end

/-! ### What a store leaves in memory -/

/-- The digits of `LD B, Vx` as numbers. -/
theorem bcdDigits_eq_ofNat (b : Byte) :
    bcdDigits b = [BitVec.ofNat 8 (b.toNat / 100), BitVec.ofNat 8 (b.toNat / 10 % 10),
      BitVec.ofNat 8 (b.toNat % 10)] := by
  have hhundreds : b / 100#8 = BitVec.ofNat 8 (b.toNat / 100) :=
    BitVec.eq_of_toNat_eq (by simp; omega)
  have htens : b / 10#8 % 10#8 = BitVec.ofNat 8 (b.toNat / 10 % 10) :=
    BitVec.eq_of_toNat_eq (by simp; omega)
  have hones : b % 10#8 = BitVec.ofNat 8 (b.toNat % 10) := BitVec.eq_of_toNat_eq (by simp; omega)
  rw [bcdDigits, hhundreds, htens, hones]

/-- A byte of memory after `LD B, Vx` has stored at `a` (43_index_memory.md R118). -/
theorem Memory.read_writeBytes_bcdDigits (m : Memory) (a : Nat) (d : Byte) (b : Nat) :
    (m.writeBytes a (bcdDigits d)).read b =
      if b = a then BitVec.ofNat 8 (d.toNat / 100)
      else if b = a + 1 then BitVec.ofNat 8 (d.toNat / 10 % 10)
      else if b = a + 2 then BitVec.ofNat 8 (d.toNat % 10)
      else m.read b := by
  rw [bcdDigits_eq_ofNat]
  simp only [Memory.writeBytes, Memory.read_write]
  by_cases h0 : b = a
  · simp only [h0, if_true]
    rw [if_neg (by omega), if_neg (by omega)]
  · by_cases h1 : b = a + 1
    · simp [h1]
    · simp [h0, h1]

/-- A byte of memory after `LD [I], Vx` has stored at `a` (43_index_memory.md R119). -/
theorem Memory.read_writeBytes_regsUpTo (m : Memory) (a : Nat) (s : State) (x : Reg) (b : Nat) :
    (m.writeBytes a (s.regsUpTo x)).read b =
      if a ≤ b ∧ b ≤ a + x.val then s.reg (Fin.ofNat 16 (b - a)) else m.read b := by
  rw [Memory.read_writeBytes, State.regsUpTo_length]
  have hx := x.isLt
  by_cases hin : a ≤ b ∧ b ≤ a + x.val
  · have hval : (Fin.ofNat 16 (b - a)).val = b - a := Nat.mod_eq_of_lt (by omega)
    have hget := s.regsUpTo_getD x (Fin.ofNat 16 (b - a)) (by omega) 0#8
    rw [hval] at hget
    rw [if_pos hin, if_pos (by omega), hget]
  · rw [if_neg hin, if_neg (by omega)]

/-- A fetch at `target` reads the two bytes there. -/
theorem State.fetch_setPc (s : State) {target : Word} (h : target.toNat ≤ 0xFFE) :
    (s.setPc target).fetch =
      .ok (bigEndian (s.mem.read target.toNat) (s.mem.read (target.toNat + 1))) :=
  State.fetch_eq_wordAtPc (s := s.setPc target) h

/-! ### The obligations -/

/-- Settles O10: up to 0xFFE the fetch answers `bigEndian` of the bytes at `PC` and `PC + 1`. -/
theorem fetchIsBigEndian : Obligations.FetchIsBigEndian :=
  fun s hpc => ⟨s.wordAtPc, State.fetch_eq_wordAtPc hpc, bigEndian_toNat _ _⟩

/-- Settles O21: a step changes memory by the instruction it runs alone, inside that one's footprint. -/
theorem onlyStoresWriteMemory : Obligations.OnlyStoresWriteMemory := by
  intro s t a h hne
  obtain hkept | ⟨i, u, -, hdec, hexec, rfl⟩ := step_cases h
  · rw [hkept] at hne
    exact absurd rfl hne
  · rw [State.betweenSteps_mem, State.reportAudio_mem] at hne
    obtain ⟨x, ⟨rfl, hat⟩ | ⟨rfl, hat⟩⟩ := footprint_bytes_cases (exec_changed_byte hexec hne)
    · exact ⟨x, Or.inl ⟨hdec, hat⟩⟩
    · exact ⟨x, Or.inr ⟨hdec, hat⟩⟩

/-- Settles O49: a fetch reads memory as the store left it, byte by byte. -/
theorem storedBytesAreFetched : Obligations.StoredBytesAreFetched := by
  intro x s
  constructor
  · intro hfits
    have hpasses : raises s (.ldMemVx x) = none := if_neg hfits.not_gt
    refine ⟨_, exec_ldMemVx_of_passes hpasses, fun target htarget => ?_⟩
    simp only [State.fetch_setPc _ htarget, State.advance_eq, State.setPc_mem,
      Memory.read_writeBytes_regsUpTo]
  · intro hfits
    have hpasses : raises s (.ldB x) = none := if_neg hfits.not_gt
    refine ⟨_, exec_ldB_of_passes hpasses, fun target htarget => ?_⟩
    simp only [State.fetch_setPc _ htarget, State.advance_eq, State.setPc_mem,
      Memory.read_writeBytes_bcdDigits]

end Sys2Proof.Machine
end

section
/-! PROOFS. The decoder and the encoder against each other (30_encoding.md R63 to R71): the round trip,
what a word that decodes looks like, and which words do not decode. -/

namespace Sys2Proof

/-! ### A word is the packing of its own fields -/

section
variable (w : Word)

theorem packA_fields : packA (fieldClass w) (fieldNNN w) = w := by
  apply BitVec.eq_of_toNat_eq
  rw [packA_toNat, fieldClass_toNat, fieldNNN_toNat]
  omega

theorem packXKK_fields : packXKK (fieldClass w) (fieldX w) (fieldKK w) = w := by
  apply BitVec.eq_of_toNat_eq
  rw [packXKK_toNat, fieldClass_toNat, fieldX_val, fieldKK_toNat]
  omega

theorem packXYN_fields :
    packXYN (fieldClass w) (fieldX w) (fieldY w) (fieldN w) = w := by
  apply BitVec.eq_of_toNat_eq
  rw [packXYN_toNat, fieldClass_toNat, fieldX_val, fieldY_val, fieldN_toNat]
  omega

end

section
variable {w : Word} {op : Nibble}

theorem packA_of_fields {nnn : Addr} (hclass : fieldClass w = op) (hnnn : fieldNNN w = nnn) :
    packA op nnn = w := by
  rw [← hclass, ← hnnn, packA_fields]

theorem packXKK_of_fields {kk : Byte} (hclass : fieldClass w = op) (hkk : fieldKK w = kk) :
    packXKK op (fieldX w) kk = w := by
  rw [← hclass, ← hkk, packXKK_fields]

theorem packXYN_of_fields {n : Nibble} (hclass : fieldClass w = op) (hn : fieldN w = n) :
    packXYN op (fieldX w) (fieldY w) n = w := by
  rw [← hclass, ← hn, packXYN_fields]

end

/-! ### Decoding what was encoded -/

/-- A `SYS` word is not taken for `CLS` or `RET` when its field is not reserved (48_unimplemented.md
R135). -/
theorem decodeClass0_packA {strict : Bool} {nnn : Addr} (h : sysReserved strict nnn = false) :
    decodeClass0 strict (packA 0x0#4 nnn) = .sys nnn := by
  cases strict <;> simp_all [sysReserved, decodeClass0]

/-- The decoder undoes the encoder on every well-formed instruction. -/
theorem decodeWord_encode {strict : Bool} {i : Instr} (h : i.wf strict = true) :
    decodeWord strict (encode i) = .ok i := by
  cases i
  case cls => cases strict <;> rfl
  case ret => cases strict <;> rfl
  case sys nnn =>
    have hfree : sysReserved strict nnn = false := by simpa [Instr.wf] using h
    simp [encode, decodeWord, decodeClass0_packA hfree]
  case seReg x y => simp [encode, decodeWord, decodeRegSkip]
  case sneReg x y => simp [encode, decodeWord, decodeRegSkip]
  all_goals simp [encode, decodeWord, decodeClass8, decodeClassE, decodeClassF]

/-! ### What a word that decodes looks like -/

/-- The bits of its words that an instruction ignores (30_encoding.md R70, decision D22, log entry 5). -/
def ignoredBits (strict : Bool) : Instr → Word
  | .cls | .ret => if strict then 0x0000#16 else 0x0F00#16
  | .seReg _ _ | .sneReg _ _ => if strict then 0x0000#16 else 0x000F#16
  | _ => 0x0000#16

@[simp] theorem ignoredBits_true (i : Instr) : ignoredBits true i = 0x0000#16 := by
  cases i <;> rfl

/-- `w` is a word of the well-formed instruction `i`: its encoding, but for the bits `i` ignores. -/
structure IsWordOf (strict : Bool) (w : Word) (i : Instr) : Prop where
  wf : i.wf strict = true
  bits : w &&& ~~~ignoredBits strict i = encode i

/-- The word of an instruction that ignores no bit. -/
theorem IsWordOf.of_encode_eq {strict : Bool} {w : Word} {i : Instr} (h : encode i = w)
    (hwf : i.wf strict = true) (hnone : ignoredBits strict i = 0x0000#16) : IsWordOf strict w i where
  wf := hwf
  bits := by rw [hnone, h]; exact BitVec.and_allOnes

/-- Under the mask of all but the low nibble, format `XYN` keeps its other fields. -/
theorem packXYN_mask_n (op : Nibble) (x y : Reg) (n : Nibble) :
    packXYN op x y n &&& 0xFFF0#16 = packXYN op x y 0x0#4 := by
  apply BitVec.eq_of_getLsbD_eq
  intro k hk
  rw [BitVec.getLsbD_and, packXYN_getLsbD, packXYN_getLsbD]
  interval_cases k <;> simp

section
variable {strict : Bool} {w : Word} {i j : Instr}

/-- A class-0 word is one of `CLS`, `RET` or `SYS`. -/
theorem isWordOf_decodeClass0 (hclass : fieldClass w = 0x0#4) :
    IsWordOf strict w (decodeClass0 strict w) := by
  have hsys : packA 0x0#4 (fieldNNN w) = w := packA_of_fields hclass rfl
  cases strict
  case true =>
    rw [decodeClass0, if_pos rfl]
    split
    case isTrue hcls => exact .of_encode_eq (packA_of_fields hclass hcls) rfl rfl
    case isFalse hcls =>
      split
      case isTrue hret => exact .of_encode_eq (packA_of_fields hclass hret) rfl rfl
      case isFalse hret => exact .of_encode_eq hsys (by simp [Instr.wf, sysReserved, hcls, hret]) rfl
  case false =>
    have hXKK {kk : Byte} (hkk : fieldKK w = kk) : w &&& 0xF0FF#16 = packXKK 0x0#4 0 kk := by
      rw [← packXKK_of_fields hclass hkk, Laws.TablePattern.packXKK_function]
    rw [decodeClass0, if_neg Bool.false_ne_true]
    split
    case isTrue hcls => exact ⟨rfl, hXKK hcls⟩
    case isFalse hcls =>
      split
      case isTrue hret => exact ⟨rfl, hXKK hret⟩
      case isFalse hret =>
        refine .of_encode_eq hsys ?_ rfl
        rw [← hsys, fieldKK_packA] at hcls hret
        simp [Instr.wf, sysReserved, hcls, hret]

/-- A register skip decodes unless it is strict and the low nibble is not 0. -/
theorem decodeRegSkip_eq_ok_iff :
    decodeRegSkip strict w j = .ok i ↔ j = i ∧ (strict = true → fieldN w = 0x0#4) := by
  unfold decodeRegSkip
  split <;> simp_all

/-- A word of class 0x5 or 0x9 that decodes, `j` being the register skip of its class. -/
theorem isWordOf_decodeRegSkip
    (henc : encode j = packXYN (fieldClass w) (fieldX w) (fieldY w) 0x0#4)
    (hwf : j.wf strict = true) (hmask : ignoredBits false j = 0x000F#16)
    (h : decodeRegSkip strict w j = .ok i) : IsWordOf strict w i := by
  obtain ⟨rfl, hn⟩ := decodeRegSkip_eq_ok_iff.mp h
  cases strict
  case true =>
    exact .of_encode_eq (henc.trans (packXYN_of_fields rfl (hn rfl))) hwf (ignoredBits_true j)
  case false =>
    refine ⟨hwf, ?_⟩
    rw [hmask, henc]
    nth_rw 1 [← packXYN_fields w]
    exact packXYN_mask_n _ _ _ _

/-- A word of class 0x8 that decodes. -/
theorem isWordOf_decodeClass8 (hclass : fieldClass w = 0x8#4) (h : decodeClass8 w = .ok i) :
    IsWordOf strict w i := by
  unfold decodeClass8 at h
  split at h <;> cases h <;> rename_i hn <;>
    exact .of_encode_eq (packXYN_of_fields hclass hn) rfl rfl

/-- A word of class 0xE that decodes. -/
theorem isWordOf_decodeClassE (hclass : fieldClass w = 0xE#4) (h : decodeClassE w = .ok i) :
    IsWordOf strict w i := by
  unfold decodeClassE at h
  split at h <;> cases h <;> rename_i hkk <;>
    exact .of_encode_eq (packXKK_of_fields hclass hkk) rfl rfl

/-- A word of class 0xF that decodes. -/
theorem isWordOf_decodeClassF (hclass : fieldClass w = 0xF#4) (h : decodeClassF w = .ok i) :
    IsWordOf strict w i := by
  unfold decodeClassF at h
  split at h <;> cases h <;> rename_i hkk <;>
    exact .of_encode_eq (packXKK_of_fields hclass hkk) rfl rfl

/-- A word decodes only to an instruction it is a word of. Case `h_k` of the dispatch is class `k - 1`,
and the last one, class 0xF, is what is left. -/
theorem isWordOf_of_decodeWord_eq_ok (h : decodeWord strict w = .ok i) : IsWordOf strict w i := by
  unfold decodeWord at h
  split at h
  case h_1 hclass => cases h; exact isWordOf_decodeClass0 hclass
  case h_6 hclass => exact isWordOf_decodeRegSkip (by rw [hclass, encode]) rfl rfl h
  case h_9 hclass => exact isWordOf_decodeClass8 hclass h
  case h_10 hclass => exact isWordOf_decodeRegSkip (by rw [hclass, encode]) rfl rfl h
  case h_14 hclass => cases h; exact .of_encode_eq (packXYN_of_fields hclass rfl) rfl rfl
  case h_15 hclass => exact isWordOf_decodeClassE hclass h
  case h_16 =>
    have hclass : fieldClass w = 0xF#4 := by
      simp only [imp_false] at *
      bv_omega
    exact isWordOf_decodeClassF hclass h
  case h_4 hclass | h_5 hclass | h_7 hclass | h_8 hclass | h_13 hclass =>
    cases h; exact .of_encode_eq (packXKK_of_fields hclass rfl) rfl rfl
  case h_2 hclass | h_3 hclass | h_11 hclass | h_12 hclass =>
    cases h; exact .of_encode_eq (packA_of_fields hclass rfl) rfl rfl

end

open Laws.TablePattern in
/-- Every encoding lies in its instruction's row of the opcode table. -/
theorem encode_and_mask (i : Instr) : Statement i :=
  match i with
  | .cls => cls
  | .ret => ret
  | .sys nnn => sys nnn
  | .jp nnn => jp nnn
  | .call nnn => call nnn
  | .seByte x kk => seByte x kk
  | .sneByte x kk => sneByte x kk
  | .seReg x y => seReg x y
  | .ldByte x kk => ldByte x kk
  | .addByte x kk => addByte x kk
  | .ldReg x y => ldReg x y
  | .orReg x y => orReg x y
  | .andReg x y => andReg x y
  | .xorReg x y => xorReg x y
  | .addReg x y => addReg x y
  | .subReg x y => subReg x y
  | .shrReg x y => shrReg x y
  | .subnReg x y => subnReg x y
  | .shlReg x y => shlReg x y
  | .sneReg x y => sneReg x y
  | .ldI nnn => ldI nnn
  | .jpV0 nnn => jpV0 nnn
  | .rnd x kk => rnd x kk
  | .drw x y n => drw x y n
  | .skp x => skp x
  | .sknp x => sknp x
  | .ldVxDt x => ldVxDt x
  | .ldVxK x => ldVxK x
  | .ldDtVx x => ldDtVx x
  | .ldStVx x => ldStVx x
  | .addI x => addI x
  | .ldF x => ldF x
  | .ldB x => ldB x
  | .ldMemVx x => ldMemVx x
  | .ldVxMem x => ldVxMem x

/-- No row's mask has a bit that the instruction ignores. -/
theorem not_ignoredBits_and_mask (strict : Bool) (i : Instr) :
    ~~~ignoredBits strict i &&& (tableRow strict i).2 = (tableRow strict i).2 := by
  cases strict
  case true => rw [ignoredBits_true]; exact BitVec.allOnes_and
  case false => cases i <;> simp [ignoredBits, tableRow]

/-! ### Which words do not decode -/

/-- The words that 30_encoding.md R71 lists. -/
def IllegalWord (strict : Bool) (w : Word) : Prop :=
  let cls := w.toNat / 0x1000
  let kk := w.toNat % 0x100
  let n := w.toNat % 0x10
  (cls = 0x8 ∧ (n = 0x8 ∨ n = 0x9 ∨ n = 0xA ∨ n = 0xB ∨ n = 0xC ∨ n = 0xD ∨ n = 0xF)) ∨
  (cls = 0xE ∧ kk ≠ 0x9E ∧ kk ≠ 0xA1) ∨
  (cls = 0xF ∧ kk ≠ 0x07 ∧ kk ≠ 0x0A ∧ kk ≠ 0x15 ∧ kk ≠ 0x18 ∧ kk ≠ 0x1E ∧ kk ≠ 0x29 ∧
    kk ≠ 0x33 ∧ kk ≠ 0x55 ∧ kk ≠ 0x65) ∨
  (strict = true ∧ (cls = 0x5 ∨ cls = 0x9) ∧ n ≠ 0)

section
variable {strict : Bool} {w : Word} {i : Instr} {e : DecodeError}

theorem fieldClass_eq_iff {c : Nibble} : fieldClass w = c ↔ w.toNat / 4096 = c.toNat := by
  rw [BitVec.toNat_eq, fieldClass_toNat, Nat.mod_eq_of_lt (by omega)]

theorem fieldN_eq_iff {n : Nibble} : fieldN w = n ↔ w.toNat % 16 = n.toNat := by
  rw [BitVec.toNat_eq, fieldN_toNat]

theorem fieldKK_eq_iff {kk : Byte} : fieldKK w = kk ↔ w.toNat % 256 = kk.toNat := by
  rw [BitVec.toNat_eq, fieldKK_toNat]

theorem decodeRegSkip_eq_error_iff :
    decodeRegSkip strict w i = .error e ↔
      e = .unknownOpcode w ∧ strict = true ∧ w.toNat % 16 ≠ 0 := by
  unfold decodeRegSkip
  split <;> simp_all [fieldN_eq_iff, eq_comm (a := e)]

theorem decodeClass8_eq_error_iff :
    decodeClass8 w = .error e ↔ e = .unknownOpcode w ∧
      (w.toNat % 16 = 0x8 ∨ w.toNat % 16 = 0x9 ∨ w.toNat % 16 = 0xA ∨ w.toNat % 16 = 0xB ∨
        w.toNat % 16 = 0xC ∨ w.toNat % 16 = 0xD ∨ w.toNat % 16 = 0xF) := by
  unfold decodeClass8
  split
  case h_10 =>
    simp_all only [imp_false, fieldN_eq_iff, Except.error.injEq, eq_comm (a := e), iff_self_and]
    bv_omega
  all_goals simp_all [fieldN_eq_iff]

theorem decodeClassE_eq_error_iff :
    decodeClassE w = .error e ↔
      e = .unknownOpcode w ∧ w.toNat % 256 ≠ 0x9E ∧ w.toNat % 256 ≠ 0xA1 := by
  unfold decodeClassE
  split
  case h_3 => simp_all [fieldKK_eq_iff, eq_comm (a := e)]
  all_goals simp_all [fieldKK_eq_iff]

theorem decodeClassF_eq_error_iff :
    decodeClassF w = .error e ↔ e = .unknownOpcode w ∧
      w.toNat % 256 ≠ 0x07 ∧ w.toNat % 256 ≠ 0x0A ∧ w.toNat % 256 ≠ 0x15 ∧
      w.toNat % 256 ≠ 0x18 ∧ w.toNat % 256 ≠ 0x1E ∧ w.toNat % 256 ≠ 0x29 ∧
      w.toNat % 256 ≠ 0x33 ∧ w.toNat % 256 ≠ 0x55 ∧ w.toNat % 256 ≠ 0x65 := by
  unfold decodeClassF
  split
  case h_10 => simp_all [fieldKK_eq_iff, eq_comm (a := e)]
  all_goals simp_all [fieldKK_eq_iff]

/-- A word fails to decode exactly when it is illegal, and the error carries the word. Its class says
which clause of `IllegalWord` can hold. -/
theorem decodeWord_eq_error_iff :
    decodeWord strict w = .error e ↔ e = .unknownOpcode w ∧ IllegalWord strict w := by
  unfold decodeWord
  split
  case h_16 =>
    simp only [imp_false, fieldClass_eq_iff] at *
    have hclass : w.toNat / 4096 = 15 := by bv_omega
    simp [IllegalWord, hclass, decodeClassF_eq_error_iff]
  all_goals
    rename_i h
    have hclass := fieldClass_eq_iff.mp h
    simp [IllegalWord, hclass, decodeRegSkip_eq_error_iff, decodeClass8_eq_error_iff,
      decodeClassE_eq_error_iff]

end

/-! ### The obligations -/

/-- Settles O3: an encoding's fields are what was packed, and the decoder dispatches on them. -/
theorem decodeOfEncode : Obligations.DecodeOfEncode := fun _ _ => decodeWord_encode

/-- Settles O4: with strict decoding no instruction ignores a bit of its word. -/
theorem encodeOfStrictDecode : Obligations.EncodeOfStrictDecode := by
  intro w i h
  obtain ⟨-, hbits⟩ := isWordOf_of_decodeWord_eq_ok h
  rw [← hbits, ignoredBits_true]
  exact BitVec.and_allOnes

/-- Settles O5: a row's mask sees the word as it sees the encoding, since the two differ in ignored bits
only. -/
theorem decodedWordLiesInItsTableRow : Obligations.DecodedWordLiesInItsTableRow := by
  intro strict w i h
  obtain ⟨hwf, hbits⟩ := isWordOf_of_decodeWord_eq_ok h
  refine ⟨hwf, ?_⟩
  calc w &&& (tableRow strict i).2
      = w &&& (~~~ignoredBits strict i &&& (tableRow strict i).2) := by rw [not_ignoredBits_and_mask]
    _ = encode i &&& (tableRow strict i).2 := by rw [← BitVec.and_assoc, hbits]
    _ = (tableRow strict i).1 := encode_and_mask i strict

/-- Settles O6: class by class, a word that does not decode is illegal, and the only other answer of the
decoder is an instruction. -/
theorem illegalWordsExactly : Obligations.IllegalWordsExactly := by
  intro strict w
  refine ⟨decodeWord_eq_error_iff.trans (and_iff_right rfl), fun hlegal => ?_⟩
  cases h : decodeWord strict w with
  | ok i => exact ⟨i, rfl⟩
  | error e => exact absurd (decodeWord_eq_error_iff.mp h).2 hlegal

end Sys2Proof
end

section
/-! PROOFS. The opcode map of 30_encoding.md R67, its patterns as numbers. -/

namespace Sys2Proof.Machine

/-! ### A number that is a word -/

/-- A number decodes as the word it is. -/
theorem Decodes.of_word {m : Nat} {w : Word} {i : Instr}
    (hd : decodeWord Config.strictDecode w = .ok i) (hm : w.toNat = m) : Decodes m i := by
  rw [Decodes, ← hm, BitVec.ofNat_toNat, BitVec.setWidth_eq, hd]

/-- The number of an encoding decodes to the instruction. -/
theorem Decodes.of_encode {m : Nat} {i : Instr} (hwf : i.wf Config.strictDecode = true)
    (hm : (encode i).toNat = m) : Decodes m i :=
  .of_word (decodeWord_encode hwf) hm

/-! ### The forms that ignore a field (30_encoding.md R70) -/

theorem decodeWord_cls (x : Reg) :
    decodeWord Config.strictDecode (packXKK 0x0#4 x 0xE0#8) = .ok .cls := by
  simp [decodeWord, decodeClass0, Config.strictDecode]

theorem decodeWord_ret (x : Reg) :
    decodeWord Config.strictDecode (packXKK 0x0#4 x 0xEE#8) = .ok .ret := by
  simp [decodeWord, decodeClass0, Config.strictDecode]

theorem decodeWord_seReg (x y : Reg) (n : Nibble) :
    decodeWord Config.strictDecode (packXYN 0x5#4 x y n) = .ok (.seReg x y) := by
  simp [decodeWord, decodeRegSkip, Config.strictDecode]

theorem decodeWord_sneReg (x y : Reg) (n : Nibble) :
    decodeWord Config.strictDecode (packXYN 0x9#4 x y n) = .ok (.sneReg x y) := by
  simp [decodeWord, decodeRegSkip, Config.strictDecode]

/-- `SYS` is well formed for any low byte but `E0` and `EE`. -/
theorem wf_sys {nnn : Addr} (hcls : nnn.toNat % 0x100 ≠ 0xE0) (hret : nnn.toNat % 0x100 ≠ 0xEE) :
    (Instr.sys nnn).wf Config.strictDecode = true := by
  simp [Instr.wf, sysReserved, Config.strictDecode, BitVec.toNat_eq, hcls, hret]

/-! ### The obligations -/

/-- Settles O2: each number is an encoding, or a word whose other bits its instruction ignores. -/
theorem opcodeMapDecodes : Obligations.OpcodeMapDecodes := by
  intro x y n kk nnn
  refine ⟨.of_word (decodeWord_cls x) ?_, .of_word (decodeWord_ret x) ?_,
    fun hcls hret => .of_encode (wf_sys hcls hret) ?_, .of_encode rfl ?_, .of_encode rfl ?_,
    .of_encode rfl ?_, .of_encode rfl ?_, .of_word (decodeWord_seReg x y n) ?_, .of_encode rfl ?_,
    .of_encode rfl ?_, .of_encode rfl ?_, .of_encode rfl ?_, .of_encode rfl ?_, .of_encode rfl ?_,
    .of_encode rfl ?_, .of_encode rfl ?_, .of_encode rfl ?_, .of_encode rfl ?_, .of_encode rfl ?_,
    .of_word (decodeWord_sneReg x y n) ?_, .of_encode rfl ?_, .of_encode rfl ?_, .of_encode rfl ?_,
    .of_encode rfl ?_, .of_encode rfl ?_, .of_encode rfl ?_, .of_encode rfl ?_, .of_encode rfl ?_,
    .of_encode rfl ?_, .of_encode rfl ?_, .of_encode rfl ?_, .of_encode rfl ?_, .of_encode rfl ?_,
    .of_encode rfl ?_, .of_encode rfl ?_⟩
  all_goals simp only [encode, packA_toNat, packXKK_toNat, packXYN_toNat, BitVec.toNat_ofNat]
  all_goals omega

/-- Settles O1: the decoder run on the fifteen words. -/
theorem specWordsDecode : Obligations.SpecWordsDecode := by
  unfold Obligations.SpecWordsDecode Decodes
  decide

end Sys2Proof.Machine
end

section
/-! PROOFS. The sequencer (30_encoding.md R81 to R86): what one step does in each of its cases, and what
falls between two steps. -/

namespace Sys2Proof.Machine

/-! ### Between two steps -/

/-- The counts of two stretches of ticks add up. -/
theorem countdown_countdown (m n : Nat) (t : Byte) :
    countdown m (countdown n t) = countdown (n + m) t := by
  apply BitVec.eq_of_toNat_eq
  rw [countdown_toNat, countdown_toNat, countdown_toNat]
  omega

theorem countdown_zero (t : Byte) : countdown 0 t = t :=
  BitVec.eq_of_toNat_eq (countdown_toNat 0 t)

theorem State.ticksDt_zero (s : State) : s.ticksDt 0 = s := by
  simp [State.ticksDt_eq, countdown_zero]

theorem State.ticksSt_zero (s : State) : s.ticksSt 0 = s := by
  simp [State.ticksSt_eq, countdown_zero]

theorem State.ticksDt_ticksDt (s : State) (m n : Nat) :
    (s.ticksDt n).ticksDt m = s.ticksDt (n + m) := by
  simp only [State.ticksDt_eq]
  split <;> simp [countdown_countdown]

theorem State.ticksSt_ticksSt (s : State) (m n : Nat) :
    (s.ticksSt n).ticksSt m = s.ticksSt (n + m) := by
  simp only [State.ticksSt_eq]
  split <;> simp [countdown_countdown]

/-- Of a family of moves where one more is one move further, the `n`-th is `n` single ones. -/
theorem iterate_one_eq {f : Nat → State → State} {s : State} (hzero : f 0 s = s)
    (hsucc : ∀ n, f 1 (f n s) = f (n + 1) s) (n : Nat) : (f 1)^[n] s = f n s := by
  induction n with
  | zero => exact hzero.symm
  | succ n ih => rw [Function.iterate_succ_apply', ih, hsucc]

theorem State.host_tickDt_iterate (s : State) (n : Nat) :
    (fun u : State => u.host .tickDt)^[n] s = s.ticksDt n :=
  iterate_one_eq (f := fun n u => u.ticksDt n) s.ticksDt_zero (s.ticksDt_ticksDt 1) n

theorem State.host_tickSt_iterate (s : State) (n : Nat) :
    (fun u : State => u.host .tickSt)^[n] s = s.ticksSt n :=
  iterate_one_eq (f := fun n u => u.ticksSt n) s.ticksSt_zero (s.ticksSt_ticksSt 1) n

/-- Settles O56: `n` ticks of a timer at once are `n` single ones. -/
theorem betweenStepsOnlyTicksFall : Obligations.BetweenStepsOnlyTicksFall := by
  intro t
  rw [State.host_tickDt_iterate, State.host_tickSt_iterate, State.betweenSteps]

/-! ### One step -/

section
variable {s : State}

/-- In a machine that has ended no tick falls: the step's inputs are used up and that is all. -/
theorem State.betweenSteps_of_ended (h : s.status ≠ .running) : s.betweenSteps = s.nextInput := by
  rw [State.betweenSteps, State.ticksDt_of_ended h, State.ticksSt_of_ended h]

theorem State.runInstruction_of_fetch_error {p : Params} (hpc : 0xFFE < s.pc.toNat) :
    s.runInstruction p = .next (s.raise (.outOfMemory s.pc 2)) := by
  rw [State.runInstruction, State.fetch, if_pos hpc]

/-- The step of a running machine with a quit pending runs no instruction (70_reset_and_hazards.md
R174). -/
theorem step_of_quit (hr : s.status = .running) (hq : s.quit = true) : step s = .next s.stop := by
  simp only [step, stepWith, State.sequence, hr, hq, if_true]

end

/-- Two bytes decode, with none left, as their big-endian word does. -/
theorem decodeBytes_pair_eq_ok_iff {strict : Bool} {hi lo : Byte} {i : Instr} :
    decodeBytes strict [hi, lo] = .ok (i, []) ↔ decodeWord strict (bigEndian hi lo) = .ok i := by
  rw [decodeBytes]
  cases decodeWord strict (bigEndian hi lo) <;> simp [Except.map]

/-! ### The obligations -/

/-- Settles O9: a step whose word decodes runs the instruction, and what falls after it keeps the
report. -/
theorem stepRunsDecodedInstruction : Obligations.StepRunsDecodedInstruction := by
  intro s i hrunning hquit hpc hbytes
  have hword : decodeWord Config.params.strictDecode s.wordAtPc = .ok i :=
    decodeBytes_pair_eq_ok_iff.mp hbytes
  obtain ⟨t, hexec, hstep⟩ := stepWith_of_decode_ok hrunning hquit hpc hword
  exact ⟨t, hexec, hstep, State.betweenSteps_calls _, State.betweenSteps_audio _⟩

/-- Settles O11: the step takes the fetch's error before it writes `OP`, and no tick falls after it. -/
theorem fetchOutsideMemoryHalts : Obligations.FetchOutsideMemoryHalts := by
  intro s hrunning hquit hpc
  have hrun : s.beginStep.runInstruction Config.params =
      .next (s.beginStep.raise (.outOfMemory s.pc 2)) := State.runInstruction_of_fetch_error hpc
  rw [step, stepWith_running hrunning hquit, hrun, afterInstruction_next,
    State.betweenSteps_of_ended (by simp)]
  rfl

/-- Settles O12: the step takes the decoder's error after it has written `OP`, and no tick falls after
it. -/
theorem unknownOpcodeHalts : Obligations.UnknownOpcodeHalts := by
  intro s e hrunning hquit hpc herr
  rw [step, stepWith_of_decode_error (p := Config.params) hrunning hquit hpc herr,
    State.betweenSteps_of_ended (by simp)]
  rfl

/-- Settles O14: QUIT sets the flag, and the step looks at it first. -/
theorem quitStopsBetweenSteps : Obligations.QuitStopsBetweenSteps :=
  fun s hrunning => step_of_quit (s := s.host .quit) hrunning rfl

end Sys2Proof.Machine
end

section
/-! PROOFS. The flow family (40_flow.md R90 to R93): the jumps, the call and the return, and a call
followed by its return. -/

namespace Sys2Proof.Machine

section
variable {s t : State}

/-- The fetch from an address above 0xFFE fails, whatever wrote it to `PC` (60_exceptions.md R139). -/
theorem State.fetch_of_outside (h : 0xFFE < s.pc.toNat) : s.fetch = .error (.outOfMemory s.pc 2) :=
  if_pos h

/-- A push stays in a footprint that has `SP` and the entry at `SP`. -/
theorem Frame.push {f : Footprint} (h : Frame f s t) (hsp : t.sp.val < 16)
    (hslot : f.slots ⟨t.sp.val, hsp⟩ = true) (hdepth : f.depth = true) (w : Word) :
    Frame f s { t with
      stack := t.stack.set t.sp.val w, sp := ⟨t.sp.val + 1, Nat.succ_lt_succ hsp⟩ } :=
  (h.setSlot hslot w).setDepth hdepth _

/-- Once `SP` is back at its old value, the footprint need not have it. -/
theorem Frame.of_sp_eq {f : Footprint} (h : Frame { f with depth := true } s t) (hsp : t.sp = s.sp) :
    Frame f s t := { h with depth := fun _ => hsp }

end

/-! ### The obligations -/

/-- Settles O30: the entry that `RET` pops is the one that `CALL` has pushed, its own address. -/
theorem callThenReturnResumesAfterCall : Obligations.CallThenReturnResumesAfterCall := by
  intro nnn s hsp
  have hcall : raises s (.call nnn) = none := raises_call_eq_none.mpr hsp
  refine ⟨_, _, exec_call_of_passes hcall,
    exec_ret_of_passes (raises_ret_eq_none.mpr (Nat.succ_ne_zero s.sp.val)), ?_, rfl, ?_⟩
  · exact congrArg (· + 2#16) (Vector.getElem_set_self hsp)
  · have hpushed := (Frame.refl { slots := fun j => j.val == s.sp.val, depth := true } s).push
      hsp (beq_self_eq_true s.sp.val) rfl s.pc
    exact Frame.of_sp_eq (((hpushed.setPc (addrOperand nnn)).setDepth rfl s.sp).setPc _) rfl

/-- Settles O27: a jump checks nothing, and the next fetch does. -/
theorem jumpSetsPc : Obligations.JumpSetsPc := by
  intro nnn s
  have hpc : (addrOperand nnn).toNat = nnn.toNat := addrOperand_toNat nnn
  refine ⟨.of_encode rfl (packA_toNat 0x1#4 nnn), _, rfl, hpc, exec_frame (i := .jp nnn) rfl rfl, ?_⟩
  exact fun hout => State.fetch_of_outside (hpc ▸ hout)

/-- Settles O28, by the two answers of the push. -/
theorem callPushesItsAddress : Obligations.CallPushesItsAddress := by
  intro nnn s
  refine ⟨.of_encode rfl (packA_toNat 0x2#4 nnn), fun j hj => ?_, fun hfull => ?_⟩
  · have hsp : s.sp.val < 16 := hj ▸ j.isLt
    obtain rfl : j = ⟨s.sp.val, hsp⟩ := Fin.ext hj
    exact ⟨_, exec_call_of_passes (raises_call_eq_none.mpr hsp), Vector.getElem_set_self hsp, rfl,
      addrOperand_toNat nnn, ((Frame.refl _ s).push hsp (beq_self_eq_true _) rfl s.pc).setPc _⟩
  · exact ⟨_, exec_of_raises (if_pos hfull), rfl, rfl, (Frame.refl _ s).raise rfl _⟩

/-- Settles O29, by the two answers of the pop. -/
theorem returnPopsAndAddsTwo : Obligations.ReturnPopsAndAddsTwo := by
  intro x s
  refine ⟨.of_word (decodeWord_ret x) ?_, fun j hj => ?_, fun hempty => ?_⟩
  · rw [packXKK_toNat, BitVec.toNat_ofNat, BitVec.toNat_ofNat]
    omega
  · have hpass : raises s .ret = none := raises_ret_eq_none.mpr (hj ▸ Nat.succ_ne_zero j.val)
    have hexec := exec_ret_of_passes hpass
    refine ⟨_, hexec, ?_, ?_, exec_frame hpass hexec⟩
    · simp [← hj]
    · simp [← hj]
  · exact ⟨_, exec_of_raises (if_pos hempty), rfl, rfl, (Frame.refl _ s).raise rfl _⟩

/-- Settles O31: the sum of two operands narrower than `PC` does not wrap. -/
theorem jumpIndexedByV0 : Obligations.JumpIndexedByV0 := fun nnn s =>
  ⟨.of_encode rfl (packA_toNat 0xB#4 nnn), _, rfl, addrOperand_add_byteOperand_toNat nnn (s.reg 0),
    exec_frame (i := .jpV0 nnn) rfl rfl⟩

end Sys2Proof.Machine
end

section
/-! PROOFS. The skip family (41_skip.md R94 to R99): a skip writes only `PC`, and the two skips on a key
take their error before they do. -/

namespace Sys2Proof.Machine

section
variable {s : State} {i : Instr}

/-- Of an instruction that answers a skip, only `PC` changes, by what its condition says (41_skip.md
R94). -/
theorem exec_skip {c : Bool} {q : Prop} [Decidable q] (hexec : exec i s = .next (s.skipIf c))
    (hc : c = true ↔ q) :
    ∃ t, exec i s = .next t ∧ t.pc = (if q then s.pc + 4#16 else s.pc + 2#16) ∧ Frame {} s t :=
  ⟨_, hexec, by simp [hc], (Frame.refl _ s).setPc _⟩

/-- Of an instruction whose own check fails, only `STATE` changes (60_exceptions.md R140). -/
theorem exec_halts_of_raises {e : FatalError} (h : raises s i = some e) :
    ∃ t, exec i s = .next t ∧ t.status = .halted e ∧ t.pc = s.pc ∧ Frame { status := true } s t :=
  ⟨_, exec_of_raises h, rfl, rfl, (Frame.refl _ s).raise rfl e⟩

end

/-- With strict decoding a word of class 5 or 9 must have the low nibble 0 (30_encoding.md R70). -/
theorem decodeWord_strict_regSkip_eq_error {w : Word}
    (hclass : w.toNat / 0x1000 = 0x5 ∨ w.toNat / 0x1000 = 0x9) (hn : w.toNat % 0x10 ≠ 0) :
    decodeWord true w = .error (.unknownOpcode w) :=
  decodeWord_eq_error_iff.mpr ⟨rfl, .inr (.inr (.inr ⟨rfl, hclass, hn⟩))⟩

/-! ### The obligations -/

/-- Settles O32: the two skips on a byte, each with its own condition. -/
theorem skipOnByte : Obligations.SkipOnByte := fun x kk _ =>
  ⟨.of_encode rfl (packXKK_toNat 0x3#4 x kk), .of_encode rfl (packXKK_toNat 0x4#4 x kk),
    exec_skip rfl beq_iff_eq, exec_skip rfl bne_iff_ne⟩

/-- Settles O33: the default decoder ignores the low nibble of both words, and the strict one needs it
to be 0. -/
theorem skipOnRegister : Obligations.SkipOnRegister := by
  intro x y n s
  refine ⟨.of_word (decodeWord_seReg x y n) (packXYN_toNat 0x5#4 x y n),
    .of_word (decodeWord_sneReg x y n) (packXYN_toNat 0x9#4 x y n), fun hn w hw => ?_,
    exec_skip rfl beq_iff_eq, exec_skip rfl bne_iff_ne⟩
  have hlow : n.toNat ≠ 0 := mt (BitVec.eq_of_toNat_eq (y := 0#4)) hn
  exact decodeWord_strict_regSkip_eq_error (by omega) (by omega)

/-- Settles O34, by whether `V[x]` names a key. -/
theorem skipOnKey : Obligations.SkipOnKey := by
  refine fun x s => ⟨fun hkey => ⟨?_, ?_⟩, fun hinvalid => ⟨?_, ?_⟩⟩
  · exact exec_skip (exec_skp_of_passes (raises_skp_eq_none.mpr hkey)) Iff.rfl
  · exact exec_skip (exec_sknp_of_passes (raises_sknp_eq_none.mpr hkey))
      (iff_of_eq (Bool.not_eq_true' _))
  · exact exec_halts_of_raises (if_pos hinvalid)
  · exact exec_halts_of_raises (if_pos hinvalid)

end Sys2Proof.Machine
end

section
/-! PROOFS. The load and arithmetic family (42_load_arith.md R100 to R111): what an instruction that
ends in a register write, or in a result and a flag, leaves in those registers, and the value of each
flag. -/

namespace Sys2Proof.Machine

/-! ### The registers written -/

section
variable (s : State) (x : Reg) (b : Byte) (c : Bool)

theorem State.reg_setReg_advance : (s.setReg x b).advance.reg x = b :=
  (State.reg_setReg s x b x).trans (if_pos rfl)

/-- `VF` takes the flag for every `x`, the flag being written last (42_load_arith.md R100, decision
D6). -/
theorem State.reg_vf_setResultFlag_advance : (s.setResultFlag x b c).advance.reg vf = flagByte c :=
  State.reg_setReg_advance (s.setReg x b) vf (flagByte c)

theorem State.reg_setResultFlag_advance {x : Reg} (hx : x ≠ vf) :
    (s.setResultFlag x b c).advance.reg x = b :=
  ((State.reg_setReg (s.setReg x b) vf (flagByte c) x).trans (if_neg hx)).trans
    (State.reg_setReg_advance s x b)

end

theorem withFlag_vf_eq_only : withFlag vf = only vf := funext fun _ => Bool.or_self _

/-! ### The flags and the difference as numbers -/

section
variable (a b : Byte)

theorem flagByte_toNat (c : Bool) : (flagByte c).toNat = c.toNat := by cases c <;> rfl

theorem flagByte_carryOut :
    flagByte (carryOut a b) = if 0xFF < a.toNat + b.toNat then 1#8 else 0#8 :=
  if_congr decide_eq_true_iff rfl rfl

theorem flagByte_noBorrow : flagByte (noBorrow a b) = if b.toNat < a.toNat then 1#8 else 0#8 :=
  if_congr decide_eq_true_iff rfl rfl

theorem flagByte_shiftedOutLow_toNat : (flagByte (shiftedOutLow a)).toNat = a.toNat % 2 := by
  rw [flagByte_toNat, shiftedOutLow, BitVec.getLsbD, Nat.toNat_testBit, pow_zero, Nat.div_one]

theorem flagByte_shiftedOutHigh_toNat : (flagByte (shiftedOutHigh a)).toNat = a.toNat / 128 := by
  rw [flagByte_toNat, shiftedOutHigh, BitVec.getLsbD, Nat.toNat_testBit]
  omega

/-- The carry is the ninth bit of the sum. -/
theorem carry_toNat :
    (if 0xFF < a.toNat + b.toNat then 1#8 else 0#8).toNat = (a.toNat + b.toNat) / 256 := by
  split
  · rw [BitVec.toNat_ofNat]
    omega
  · rw [BitVec.toNat_ofNat]
    omega

/-- A difference that wraps, 256 added before the subtraction of numbers. -/
theorem byte_sub_toNat : (a - b).toNat = (a.toNat + 256 - b.toNat) % 256 := by
  rw [BitVec.toNat_sub]
  omega

end

/-- The word `8xyN`, the function nibble beside the class as 30_encoding.md R67 writes it. -/
theorem packXYN_class8_toNat (x y : Reg) (n : Nibble) :
    (packXYN 0x8#4 x y n).toNat = 0x8000 + n.toNat + x.val * 0x100 + y.val * 0x10 := by
  rw [packXYN_toNat, BitVec.toNat_ofNat]
  omega

/-! ### The obligations -/

/-- Settles O35: both loads end in one register write. -/
theorem loadRegister : Obligations.LoadRegister := fun x y kk s =>
  ⟨.of_encode rfl (packXKK_toNat 0x6#4 x kk), .of_encode rfl (packXYN_class8_toNat x y 0x0#4),
    ⟨_, rfl, s.reg_setReg_advance x kk, rfl, exec_frame (i := .ldByte x kk) rfl rfl⟩,
    ⟨_, rfl, s.reg_setReg_advance x (s.reg y), rfl, exec_frame (i := .ldReg x y) rfl rfl⟩⟩

/-- Settles O36: the only register written is the sum's. -/
theorem addByteTouchesNoFlag : Obligations.AddByteTouchesNoFlag := fun x kk s =>
  ⟨.of_encode rfl (packXKK_toNat 0x7#4 x kk), _, rfl,
    by rw [State.reg_setReg_advance, BitVec.toNat_add], rfl, exec_frame (i := .addByte x kk) rfl rfl⟩

/-- Settles O37: the only register written is the result's, and each operation works bit by bit. -/
theorem bitwiseOperations : Obligations.BitwiseOperations := by
  refine fun x y s => ⟨⟨_, rfl, fun k _ => ?_, rfl, exec_frame (i := .orReg x y) rfl rfl⟩,
    ⟨_, rfl, fun k _ => ?_, rfl, exec_frame (i := .andReg x y) rfl rfl⟩,
    ⟨_, rfl, fun k _ => ?_, rfl, exec_frame (i := .xorReg x y) rfl rfl⟩⟩
  · rw [State.reg_setReg_advance, BitVec.getLsbD_or]
  · rw [State.reg_setReg_advance, BitVec.getLsbD_and]
  · rw [State.reg_setReg_advance, BitVec.getLsbD_xor]

/-- Settles O38, by the result and the flag that the instruction ends in. -/
theorem addSetsCarry : Obligations.AddSetsCarry := by
  refine fun x y s => ⟨.of_encode rfl (packXYN_class8_toNat x y 0x4#4), _, rfl, fun hx => ?_, ?_, rfl,
    exec_frame (i := .addReg x y) rfl rfl⟩
  · rw [s.reg_setResultFlag_advance _ _ hx, BitVec.toNat_add]
  · rw [State.reg_vf_setResultFlag_advance, flagByte_carryOut]

/-- Settles O39: the two subtractions differ in which operand is the minuend. -/
theorem subtractSetsNoBorrow : Obligations.SubtractSetsNoBorrow := by
  refine fun x y s => ⟨.of_encode rfl (packXYN_class8_toNat x y 0x5#4),
    .of_encode rfl (packXYN_class8_toNat x y 0x7#4),
    ⟨_, rfl, fun hx => ?_, ?_, rfl, exec_frame (i := .subReg x y) rfl rfl⟩,
    ⟨_, rfl, fun hx => ?_, ?_, rfl, exec_frame (i := .subnReg x y) rfl rfl⟩⟩
  · rw [s.reg_setResultFlag_advance _ _ hx, byte_sub_toNat]
  · rw [State.reg_vf_setResultFlag_advance, flagByte_noBorrow]
  · rw [s.reg_setResultFlag_advance _ _ hx, byte_sub_toNat]
  · rw [State.reg_vf_setResultFlag_advance, flagByte_noBorrow]

/-- Settles O40: each shift writes the old value moved by one, and then the bit it lost. -/
theorem shiftByOne : Obligations.ShiftByOne := by
  refine fun x y s => ⟨.of_encode rfl (packXYN_class8_toNat x y 0x6#4),
    .of_encode rfl (packXYN_class8_toNat x y 0xE#4),
    ⟨_, rfl, fun hx => ?_, ?_, rfl, exec_frame (i := .shrReg x y) rfl rfl⟩,
    ⟨_, rfl, fun hx => ?_, ?_, rfl, exec_frame (i := .shlReg x y) rfl rfl⟩⟩
  · rw [s.reg_setResultFlag_advance _ _ hx, BitVec.toNat_ushiftRight, Nat.shiftRight_one]
  · rw [State.reg_vf_setResultFlag_advance, flagByte_shiftedOutLow_toNat]
  · rw [s.reg_setResultFlag_advance _ _ hx, BitVec.toNat_shiftLeft, Nat.shiftLeft_eq, pow_one]
  · rw [State.reg_vf_setResultFlag_advance, flagByte_shiftedOutHigh_toNat]

/-- Settles O41: `VF` as the destination in O38 to O40, where the register of the result and that of
the flag are one. -/
theorem flagReplacesResult : Obligations.FlagReplacesResult := by
  intro y s
  obtain ⟨-, t, hadd, -, hcarry, -, htframe⟩ := addSetsCarry vf y s
  obtain ⟨-, -, ⟨u, hsub, -, hgt, -, huframe⟩, u', hsubn, -, hgt', -, huframe'⟩ :=
    subtractSetsNoBorrow vf y s
  obtain ⟨-, -, ⟨w, hshr, -, hlow, -, hwframe⟩, w', hshl, -, hhigh, -, hwframe'⟩ := shiftByOne vf y s
  rw [withFlag_vf_eq_only] at htframe huframe huframe' hwframe hwframe'
  exact ⟨⟨t, hadd, by rw [hcarry, carry_toNat], htframe⟩, ⟨u, hsub, hgt, huframe⟩,
    ⟨u', hsubn, hgt', huframe'⟩, ⟨w, hshr, hlow, hwframe⟩, ⟨w', hshl, hhigh, hwframe'⟩⟩

end Sys2Proof.Machine
end

section
/-! PROOFS. The index and memory family (43_index_memory.md R115 to R121): what is written to `I`, what the
two stores and the block load write, and the round trip of a store and a load. -/

namespace Sys2Proof.Machine

/-! ### What is written -/

theorem flagByte_indexOverflow (i : Word) (b : Byte) :
    flagByte (indexOverflow i b) = if 0xFFF < i.toNat + b.toNat then 1#8 else 0#8 :=
  if_congr decide_eq_true_iff rfl rfl

/-- Below 0x050 the memory after reset holds the font (10_state.md R32, R33). -/
theorem State.reset_readBytes_font {a n : Nat} (h : a + n ≤ 80) :
    State.reset.mem.readBytes a n = (Config.font.drop a).take n := by
  have hlen : Config.font.length = 80 := rfl
  refine List.ext_getElem ?_ fun k hk _ => ?_
  · rw [Memory.readBytes_length, List.length_take, List.length_drop]
    omega
  · rw [Memory.readBytes_length] at hk
    have hread : State.reset.mem.read (a + k) = Config.font.getD (a + k) 0#8 := rfl
    rw [Memory.readBytes_getElem, List.getElem_take, List.getElem_drop, hread,
      List.getD_eq_getElem _ _ (by omega)]

section
variable (m : Memory) (a : Nat)

/-- Each digit is below 256, so the byte stored for it holds it whole. -/
theorem Memory.read_writeBytes_bcdDigits_toNat (d : Byte) :
    ((m.writeBytes a (bcdDigits d)).read a).toNat = d.toNat / 100 ∧
      ((m.writeBytes a (bcdDigits d)).read (a + 1)).toNat = d.toNat / 10 % 10 ∧
      ((m.writeBytes a (bcdDigits d)).read (a + 2)).toNat = d.toNat % 10 := by
  refine ⟨?_, ?_, ?_⟩
  · rw [Memory.read_writeBytes_bcdDigits, if_pos rfl, BitVec.toNat_ofNat]
    omega
  · rw [Memory.read_writeBytes_bcdDigits, if_neg (by omega), if_pos rfl, BitVec.toNat_ofNat]
    omega
  · rw [Memory.read_writeBytes_bcdDigits, if_neg (by omega), if_neg (by omega), if_pos rfl,
      BitVec.toNat_ofNat]
    omega

/-- The byte that a block store leaves for each register it reaches. -/
theorem Memory.read_writeBytes_regsUpTo_of_le (s : State) {x r : Reg} (hr : r ≤ x) :
    (m.writeBytes a (s.regsUpTo x)).read (a + r.val) = s.reg r := by
  have hle : r.val ≤ x.val := hr
  rw [Memory.read_writeBytes_regsUpTo, if_pos (by omega), Nat.add_sub_cancel_left]
  exact congrArg s.reg (Fin.ofNat_val_eq_self r)

/-- The register that a block load leaves for each byte it reads. -/
theorem State.reg_loadRegs_readBytes_of_le (s : State) {x r : Reg} (hr : r ≤ x) :
    (s.loadRegs (m.readBytes a (x.val + 1))).reg r = m.read (a + r.val) := by
  rw [State.reg_loadRegs, List.getD_eq_getElem?_getD, Memory.readBytes_getElem?,
    if_pos (Nat.lt_succ_of_le hr), Option.getD_some]

end

/-! ### The obligations -/

/-- Settles O42: a 12-bit operand is written to `I` as it is. -/
theorem loadIndex : Obligations.LoadIndex := fun nnn _ =>
  ⟨.of_encode rfl (packA_toNat 0xA#4 nnn), _, rfl, addrOperand_toNat nnn, rfl,
    exec_frame (i := .ldI nnn) rfl rfl⟩

/-- Settles O43: sum and overflow are both of the old values, for `x = VF` too. -/
theorem addIndexSetsOverflow : Obligations.AddIndexSetsOverflow := fun x s =>
  ⟨_, rfl, indexSum_toNat s.i (s.reg x),
    (State.reg_setReg_advance _ vf _).trans (flagByte_indexOverflow s.i (s.reg x)), rfl,
    exec_frame (i := .addI x) rfl rfl⟩

/-- Settles O44: the glyph of a digit ends at most at 0x050, where the font does. -/
theorem loadGlyphAddress : Obligations.LoadGlyphAddress := by
  intro x s
  have haddr : (glyphAddr (s.reg x)).toNat = (s.reg x).toNat * 5 := glyphAddr_toNat (s.reg x)
  refine ⟨_, rfl, haddr, rfl, exec_frame (i := .ldF x) rfl rfl, fun hdigit => ?_⟩
  have hglyph : (glyphAddr (s.reg x)).toNat + 5 ≤ 80 := by omega
  rw [Nat.mul_comm 5, ← haddr]
  exact State.reset_readBytes_font hglyph

/-- Settles O45, by whether the three bytes fit. -/
theorem storeDecimalDigits : Obligations.StoreDecimalDigits := by
  refine fun x s => ⟨fun hfits => ?_, fun hout => exec_halts_of_raises (if_pos hout)⟩
  have hpasses : raises s (.ldB x) = none := if_neg hfits.not_gt
  have hexec := exec_ldB_of_passes hpasses
  obtain ⟨hhundreds, htens, hones⟩ :=
    Memory.read_writeBytes_bcdDigits_toNat s.mem s.i.toNat (s.reg x)
  exact ⟨_, hexec, hhundreds, htens, hones, rfl, exec_frame hpasses hexec⟩

/-- Settles O46, by whether the `x + 1` bytes fit. -/
theorem storeRegisters : Obligations.StoreRegisters := by
  refine fun x s => ⟨fun hfits => ?_, fun hout => exec_halts_of_raises (if_pos hout)⟩
  have hpasses : raises s (.ldMemVx x) = none := if_neg hfits.not_gt
  have hexec := exec_ldMemVx_of_passes hpasses
  exact ⟨_, hexec, fun r => Memory.read_writeBytes_regsUpTo_of_le s.mem s.i.toNat s, rfl,
    exec_frame hpasses hexec⟩

/-- Settles O47, by whether the `x + 1` bytes fit. -/
theorem loadRegisters : Obligations.LoadRegisters := by
  refine fun x s => ⟨fun hfits => ?_, fun hout => exec_halts_of_raises (if_pos hout)⟩
  have hpasses : raises s (.ldVxMem x) = none := if_neg hfits.not_gt
  have hexec := exec_ldVxMem_of_passes hpasses
  exact ⟨_, hexec, fun r => State.reg_loadRegs_readBytes_of_le s.mem s.i.toNat s, rfl,
    exec_frame hpasses hexec⟩

/-- Settles O48: the load reads for each register, by O47, the byte that the store wrote for it, by O46,
and the frames of the two keep `I`. -/
theorem storeThenLoadRestoresRegisters : Obligations.StoreThenLoadRestoresRegisters := by
  intro x s hfits
  obtain ⟨t, hstore, hbytes, -, htframe⟩ := (storeRegisters x s).1 hfits
  have hti : t.i = s.i := htframe.index rfl
  refine ⟨t, hstore, hti, fun u hui hkept => ?_⟩
  rw [hti] at hui hkept
  obtain ⟨w, hload, hregs, -, hwframe⟩ := (loadRegisters x u).1 (by rwa [hui])
  refine ⟨w, hload, (hwframe.index rfl).trans hui, fun r hr => ?_⟩
  calc w.reg r = u.mem.read (s.i.toNat + r.val) := by rw [hregs r hr, hui]
    _ = t.mem.read (s.i.toNat + r.val) :=
      hkept _ (Nat.le_add_right _ _) (Nat.add_le_add_left hr _)
    _ = s.reg r := hbytes r hr

end Sys2Proof.Machine
end

section
/-! PROOFS. The random family (44_random.md R122, R123): the one register write of `RND`. -/

namespace Sys2Proof.Machine

/-! ### The obligations -/

/-- Settles O50: the only register written is the masked byte's, and the mask works bit by bit. -/
theorem randomByteIsMasked : Obligations.RandomByteIsMasked := by
  refine fun x kk s => ⟨.of_encode rfl (packXKK_toNat 0xC#4 x kk), _, rfl, fun k _ => ?_, rfl,
    exec_frame (i := .rnd x kk) rfl rfl⟩
  rw [State.reg_setReg_advance, BitVec.getLsbD_and]

end Sys2Proof.Machine
end

section
/-! PROOFS. The display family (45_display.md R124 to R127): the cells that `Blit` plots, what plotting
distinct cells leaves in the grid and the flag, and from them the clear, the draw and the second draw. -/

namespace Sys2Proof.Machine

/-! ### Plotting distinct cells -/

/-- XOR the set sprite pixels that land on these cells, one after the other. -/
def Grid.plotAll (st : Grid × Bool) (cells : List (Fin 32 × Fin 64)) : Grid × Bool :=
  cells.foldl (fun st p => Grid.plot st p.1 p.2) st

section
variable {cells : List (Fin 32 × Fin 64)} (st : Grid × Bool)

theorem Grid.plotAll_cons (p : Fin 32 × Fin 64) :
    Grid.plotAll st (p :: cells) = Grid.plotAll (Grid.plot st p.1 p.2) cells := rfl

theorem Grid.plotAll_append (cells' : List (Fin 32 × Fin 64)) :
    Grid.plotAll st (cells ++ cells') = Grid.plotAll (Grid.plotAll st cells) cells' :=
  List.foldl_append

/-- No cell being plotted twice, the plotted ones are inverted and the others kept. -/
theorem Grid.pixel_plotAll (h : cells.Nodup) (row : Fin 32) (col : Fin 64) :
    (Grid.plotAll st cells).1.pixel row col =
      (st.1.pixel row col ^^ decide ((row, col) ∈ cells)) := by
  induction cells generalizing st with
  | nil => simp [Grid.plotAll]
  | cons p ps ih =>
    obtain ⟨hp, hps⟩ := List.nodup_cons.mp h
    rw [Grid.plotAll_cons, ih _ hps, Grid.plot_fst, Grid.pixel_flip]
    by_cases he : (row, col) = p
    · subst he
      simp [hp]
    · have hne : ¬(row = p.1 ∧ col = p.2) := fun hc => he (Prod.ext hc.1 hc.2)
      simp [he, hne]

/-- No cell being plotted twice, each is found as it was before the first plot. -/
theorem Grid.plotAll_snd (h : cells.Nodup) : (Grid.plotAll st cells).2 = true ↔
    st.2 = true ∨ ∃ p ∈ cells, st.1.pixel p.1 p.2 = true := by
  induction cells generalizing st with
  | nil => simp [Grid.plotAll]
  | cons p ps ih =>
    obtain ⟨hp, hps⟩ := List.nodup_cons.mp h
    have hkept : ∀ q ∈ ps, (st.1.flip p.1 p.2).pixel q.1 q.2 = st.1.pixel q.1 q.2 := by
      intro q hq
      have hne : ¬(q.1 = p.1 ∧ q.2 = p.2) := fun hc => hp (Prod.ext hc.1 hc.2 ▸ hq)
      simp [hne]
    rw [Grid.plotAll_cons, ih _ hps, Grid.plot_fst, Grid.plot_snd, Bool.or_eq_true, or_assoc,
      List.exists_mem_cons_iff]
    exact or_congr_right (or_congr_right
      (exists_congr fun q => and_congr_right fun hq => by rw [hkept q hq]))

end

/-! ### The cells of a sprite -/

/-- The cells of the set pixels of one sprite row, in the order of the inner loop of `Blit`. -/
def rowCells (b : Byte) (row : Fin 32) (cx : Byte) : List (Fin 32 × Fin 64) :=
  ((List.range 8).filter (spriteBit b)).map fun c => (row, wrapCol cx c)

/-- The cells of the set pixels from sprite row `r` on, in the order of the outer loop of `Blit`. -/
def spriteCells (cx cy : Byte) : Nat → List Byte → List (Fin 32 × Fin 64)
  | _, [] => []
  | r, b :: bs => rowCells b (wrapRow cy r) cx ++ spriteCells cx cy (r + 1) bs

section
variable {cx cy : Byte}

theorem Grid.blitRow_eq_plotAll (b : Byte) (row : Fin 32) (st : Grid × Bool) :
    Grid.blitRow b row cx st = Grid.plotAll st (rowCells b row cx) := by
  rw [Grid.plotAll, rowCells, List.foldl_map, List.foldl_filter, Grid.blitRow]

theorem Grid.blitRows_eq_plotAll (r : Nat) (rows : List Byte) (st : Grid × Bool) :
    Grid.blitRows cx cy r rows st = Grid.plotAll st (spriteCells cx cy r rows) := by
  induction rows generalizing r st with
  | nil => rfl
  | cons b bs ih =>
    rw [Grid.blitRows, ih, Grid.blitRow_eq_plotAll, spriteCells, Grid.plotAll_append]

theorem mem_rowCells {b : Byte} {row : Fin 32} {p : Fin 32 × Fin 64} :
    p ∈ rowCells b row cx ↔
      ∃ c < 8, b.getLsbD (7 - c) = true ∧ p.1 = row ∧ p.2 = wrapCol cx c := by
  simp only [rowCells, spriteBit, List.mem_map, List.mem_filter, List.mem_range, and_assoc,
    Prod.ext_iff, @eq_comm _ row, @eq_comm _ (wrapCol cx _)]

theorem mem_spriteCells {r : Nat} {rows : List Byte} {p : Fin 32 × Fin 64} :
    p ∈ spriteCells cx cy r rows ↔ ∃ k c, ∃ h : k < rows.length, c < 8 ∧
      rows[k].getLsbD (7 - c) = true ∧ p.1 = wrapRow cy (r + k) ∧ p.2 = wrapCol cx c := by
  induction rows generalizing r with
  | nil => simp [spriteCells]
  | cons b bs ih =>
    rw [spriteCells, List.mem_append, mem_rowCells, ih]
    refine Iff.trans ?_ Nat.or_exists_add_one
    simp [Nat.add_assoc, Nat.add_comm 1]

/-- The eight columns of a sprite row are distinct. -/
theorem nodup_rowCells (b : Byte) (row : Fin 32) : (rowCells b row cx).Nodup := by
  refine (List.nodup_range.filter _).map_on fun c hc d hd he => ?_
  have hcol : (cx.toNat + c) % 64 = (cx.toNat + d) % 64 := congrArg (·.2.val) he
  have hc8 : c < 8 := List.mem_range.mp (List.mem_of_mem_filter hc)
  have hd8 : d < 8 := List.mem_range.mp (List.mem_of_mem_filter hd)
  omega

/-- Up to 32 sprite rows go to distinct rows of the grid. -/
theorem nodup_spriteCells {r : Nat} {rows : List Byte} (h : rows.length ≤ 32) :
    (spriteCells cx cy r rows).Nodup := by
  induction rows generalizing r with
  | nil => exact List.nodup_nil
  | cons b bs ih =>
    rw [List.length_cons] at h
    refine (nodup_rowCells b _).append (ih (by omega)) fun p hp hps => ?_
    obtain ⟨-, -, -, hrow, -⟩ := mem_rowCells.mp hp
    obtain ⟨k, -, hk, -, -, hrow', -⟩ := mem_spriteCells.mp hps
    have hsame : (cy.toNat + r) % 32 = (cy.toNat + (r + 1 + k)) % 32 :=
      congrArg Fin.val (hrow.symm.trans hrow')
    omega

theorem mem_spriteCells_zero_iff_spriteCovers {rows : List Byte} {row : Fin 32} {col : Fin 64} :
    (row, col) ∈ spriteCells cx cy 0 rows ↔ SpriteCovers rows cx cy row col := by
  simp only [mem_spriteCells, SpriteCovers, wrapRow, wrapCol, Fin.ext_iff, Nat.zero_add]

end

/-! ### `Blit` -/

section
variable {rows : List Byte} {cx cy : Byte} {row : Fin 32} {col : Fin 64}

theorem Grid.blit_eq_plotAll (g : Grid) :
    g.blit rows cx cy = Grid.plotAll (g, false) (spriteCells cx cy 0 rows) :=
  Grid.blitRows_eq_plotAll 0 rows (g, false)

theorem Grid.pixel_blit (g : Grid) (h : rows.length ≤ 32) :
    (g.blit rows cx cy).1.pixel row col =
      (g.pixel row col ^^ decide ((row, col) ∈ spriteCells cx cy 0 rows)) := by
  rw [Grid.blit_eq_plotAll, Grid.pixel_plotAll _ (nodup_spriteCells h)]

theorem Grid.pixel_blit_of_covers (g : Grid) (h : rows.length ≤ 32)
    (hcov : SpriteCovers rows cx cy row col) :
    (g.blit rows cx cy).1.pixel row col = !g.pixel row col := by
  simp [Grid.pixel_blit g h, mem_spriteCells_zero_iff_spriteCovers.mpr hcov]

theorem Grid.pixel_blit_of_not_covers (g : Grid) (h : rows.length ≤ 32)
    (hcov : ¬SpriteCovers rows cx cy row col) :
    (g.blit rows cx cy).1.pixel row col = g.pixel row col := by
  simp [Grid.pixel_blit g h, mt mem_spriteCells_zero_iff_spriteCovers.mp hcov]

/-- `collided` (45_display.md R126): a covered pixel was set before. -/
theorem Grid.blit_snd_iff (g : Grid) (h : rows.length ≤ 32) : (g.blit rows cx cy).2 = true ↔
    ∃ row col, SpriteCovers rows cx cy row col ∧ g.pixel row col = true := by
  rw [Grid.blit_eq_plotAll, Grid.plotAll_snd _ (nodup_spriteCells h)]
  simp [mem_spriteCells_zero_iff_spriteCovers]

theorem Grid.blit_blit_fst (g : Grid) (h : rows.length ≤ 32) :
    ((g.blit rows cx cy).1.blit rows cx cy).1 = g :=
  Grid.ext_pixel fun row col => by
    rw [Grid.pixel_blit _ h, Grid.pixel_blit g h, Bool.xor_assoc, Bool.xor_self, Bool.xor_false]

/-- The second draw finds the covered pixels inverted by the first. -/
theorem Grid.blit_blit_snd_iff (g : Grid) (h : rows.length ≤ 32) :
    ((g.blit rows cx cy).1.blit rows cx cy).2 = true ↔
      ∃ row col, SpriteCovers rows cx cy row col ∧ g.pixel row col = false := by
  rw [Grid.blit_snd_iff _ h]
  refine exists_congr fun row => exists_congr fun col => and_congr_right fun hcov => ?_
  rw [Grid.pixel_blit_of_covers g h hcov, Bool.not_eq_true']

/-- A sprite with a set bit covers the cell where that bit is drawn. -/
theorem exists_spriteCovers (h : ∃ b ∈ rows, b ≠ 0#8) :
    ∃ row col, SpriteCovers rows cx cy row col := by
  obtain ⟨b, hb, hne⟩ := h
  obtain ⟨r, hr, rfl⟩ := List.getElem_of_mem hb
  obtain ⟨j, hj, hbit⟩ : ∃ j < 8, rows[r].getLsbD j = true := by
    by_contra hnone
    push Not at hnone
    exact hne (BitVec.eq_of_getLsbD_eq fun j hj => by simpa using hnone j hj)
  have hflip : 7 - (7 - j) = j := by omega
  exact ⟨wrapRow cy r, wrapCol cx (7 - j), r, 7 - j, hr, by omega, by rwa [hflip], rfl, rfl⟩

end

theorem flagByte_eq_one_iff (c : Bool) : flagByte c = 1#8 ↔ c = true := by cases c <;> decide

theorem flagByte_eq_one_or_zero (c : Bool) : flagByte c = 1#8 ∨ flagByte c = 0#8 := by
  cases c <;> decide

/-! ### The obligations -/

/-- Settles O51: CLS puts the blank grid in place of the display's and records the call. -/
theorem clearDisplay : Obligations.ClearDisplay := fun _ =>
  ⟨_, rfl, Grid.pixel_blank, rfl, rfl, exec_frame (i := .cls) rfl rfl⟩

/-- Settles O52, by whether the `n` bytes fit: what `Blit` does to the grid and its flag. -/
theorem drawSprite : Obligations.DrawSprite := by
  refine fun x y n s => ⟨fun hfits => ?_, fun hn hout => exec_halts_of_raises (if_pos ?_)⟩
  · have hpasses : raises s (.drw x y n) = none := by
      rw [raises_drw_eq_none, inBounds_iff]
      exact hfits.imp_left (congrArg BitVec.toNat)
    have hexec := exec_drw_of_passes hpasses
    have hlen : (s.mem.readBytes s.i.toNat n.toNat).length ≤ 32 := by
      rw [Memory.readBytes_length]
      omega
    have hvf := State.reg_draw s (s.mem.readBytes s.i.toNat n.toNat) (s.reg x) (s.reg y) vf
    rw [if_pos rfl] at hvf
    refine ⟨_, hexec, fun _ _ => Grid.pixel_blit_of_covers s.fb hlen,
      fun _ _ => Grid.pixel_blit_of_not_covers s.fb hlen, ?_, ?_, rfl, rfl, exec_frame hpasses hexec⟩
    · exact (flagByte_eq_one_or_zero _).imp hvf.trans hvf.trans
    · rw [State.advance_eq, State.reg_setPc, hvf, flagByte_eq_one_iff, Grid.blit_snd_iff s.fb hlen]
  · have hn0 : n.toNat ≠ 0 := mt (BitVec.eq_of_toNat_eq (y := 0#4)) hn
    omega

/-- Settles O53: the second draw inverts the same pixels again, and finds them as the first has left
them. -/
theorem drawTwiceRestoresGrid : Obligations.DrawTwiceRestoresGrid := by
  intro g rows cx cy h15
  have hlen : rows.length ≤ 32 := by omega
  refine ⟨g.blit_blit_fst hlen, g.blit_blit_snd_iff hlen, fun hset hclear => ?_⟩
  obtain ⟨row, col, hcov⟩ := exists_spriteCovers (cx := cx) (cy := cy) hset
  exact (g.blit_blit_snd_iff hlen).mpr ⟨row, col, hcov, hclear row col hcov⟩

end Sys2Proof.Machine
end

section
/-! PROOFS. The timer family (46_timers.md R128 to R132, 60_exceptions.md R150, R151): what an instruction
does to each timer, that ticks only lower it, and the three timer instructions. -/

namespace Sys2Proof.Machine

/-! ### What falls between two steps lowers a timer -/

theorem countdown_toNat_le (n : Nat) (t : Byte) : (countdown n t).toNat ≤ t.toNat :=
  (countdown_toNat n t).trans_le (Nat.sub_le _ _)

theorem State.betweenSteps_dt_le (s : State) : s.betweenSteps.dt.toNat ≤ s.dt.toNat := by
  rw [State.betweenSteps_dt]
  split
  · exact countdown_toNat_le _ _
  · exact le_rfl

theorem State.betweenSteps_st_le (s : State) : s.betweenSteps.st.toNat ≤ s.st.toNat := by
  rw [State.betweenSteps_st]
  split
  · exact countdown_toNat_le _ _
  · exact le_rfl

/-! ### What an instruction does to the timers -/

section
variable {i : Instr} {s t : State}

/-- `DT` is kept, or armed by `LD DT, Vx` (10_state.md R28). -/
theorem exec_dt_cases (h : exec i s = .next t) :
    t.dt = s.dt ∨ ∃ x, i = .ldDtVx x ∧ t.dt = s.reg x := by
  cases hr : raises s i with
  | some e => cases (exec_of_raises hr).symm.trans h; exact Or.inl rfl
  | none =>
    have hkept := (exec_frame hr h).dt
    cases i with
    | ldDtVx x => cases h; exact Or.inr ⟨x, rfl, rfl⟩
    | _ => exact Or.inl (hkept rfl)

/-- `ST` is kept, or armed by `LD ST, Vx` (10_state.md R29). -/
theorem exec_st_cases (h : exec i s = .next t) :
    t.st = s.st ∨ ∃ x, i = .ldStVx x ∧ t.st = s.reg x := by
  cases hr : raises s i with
  | some e => cases (exec_of_raises hr).symm.trans h; exact Or.inl rfl
  | none =>
    have hkept := (exec_frame hr h).st
    cases i with
    | ldStVx x => cases h; exact Or.inr ⟨x, rfl, rfl⟩
    | _ => exact Or.inl (hkept rfl)

end

/-! ### `AUDIO_ON` and the words of the family -/

/-- `AUDIO_ON` says that `ST`, as a number, is not 0 (10_state.md R38). -/
theorem State.audioOn_iff (s : State) : s.audioOn = true ↔ s.st.toNat ≠ 0 :=
  bne_iff_ne.trans (not_congr BitVec.toNat_inj.symm)

/-- The word `Fxkk`, the low byte beside the class as 30_encoding.md R67 writes it. -/
theorem packXKK_classF_toNat (x : Reg) (kk : Byte) :
    (packXKK 0xF#4 x kk).toNat = 0xF000 + kk.toNat + x.val * 0x100 := by
  rw [packXKK_toNat, BitVec.toNat_ofNat]
  omega

/-! ### The obligations -/

/-- Settles O24: a step that runs no instruction keeps both timers, and an instruction keeps a timer or
arms it, after which the ticks only lower it. -/
theorem timersRiseOnlyWhenArmed : Obligations.TimersRiseOnlyWhenArmed := by
  intro s t h
  obtain hkept | ⟨i, u, -, hdec, hexec, rfl⟩ := step_cases h
  · rw [hkept]
    exact ⟨Or.inl le_rfl, Or.inl le_rfl⟩
  · have hdtle := u.reportAudio.betweenSteps_dt_le
    have hstle := u.reportAudio.betweenSteps_st_le
    rw [State.reportAudio_dt] at hdtle
    rw [State.reportAudio_st] at hstle
    constructor
    · obtain heq | ⟨x, rfl, heq⟩ := exec_dt_cases hexec
      · exact Or.inl (heq ▸ hdtle)
      · exact Or.inr ⟨x, hdec, heq ▸ hdtle⟩
    · obtain heq | ⟨x, rfl, heq⟩ := exec_st_cases hexec
      · exact Or.inl (heq ▸ hstle)
      · exact Or.inr ⟨x, hdec, heq ▸ hstle⟩

/-- Settles O54: one register write, and one timer armed in each of the other two. -/
theorem timerInstructions : Obligations.TimerInstructions := fun x s =>
  ⟨.of_encode rfl (packXKK_classF_toNat x 0x07#8), .of_encode rfl (packXKK_classF_toNat x 0x15#8),
    .of_encode rfl (packXKK_classF_toNat x 0x18#8),
    ⟨_, rfl, s.reg_setReg_advance x s.dt, rfl, exec_frame (i := .ldVxDt x) rfl rfl⟩,
    ⟨_, rfl, rfl, rfl, exec_frame (i := .ldDtVx x) rfl rfl⟩,
    ⟨_, rfl, rfl, State.audioOn_iff _, rfl, exec_frame (i := .ldStVx x) rfl rfl⟩⟩

end Sys2Proof.Machine
end

section
/-! PROOFS. The input family (47_input.md R133, R134): the key that `LD Vx, K` loads. -/

namespace Sys2Proof.Machine

/-- `LD Vx, K` loads the key that `any_pressed()` answers, whole, as a key is below 16. -/
theorem exec_ldVxK_loads {x : Reg} {s : State} {k : Nat}
    (hkey : anyPressed s.input.keys s.input.pick = some k) :
    ∃ t, exec (.ldVxK x) s = .next t ∧ (t.reg x).toNat = k ∧ t.pc = s.pc + 2#16 ∧
      Frame { regs := only x } s t := by
  have hexec := exec_ldVxK_of_key (x := x) hkey
  obtain ⟨hlt, -⟩ := anyPressed_some hkey
  refine ⟨_, hexec, ?_, rfl, exec_frame rfl hexec⟩
  rw [State.reg_setReg_advance, BitVec.toNat_ofNat]
  omega

/-! ### The obligations -/

/-- Settles O57: `any_pressed()` answers a key exactly when one is down, only keys that are down, and
each of those for some choice. -/
theorem waitForKey : Obligations.WaitForKey := by
  refine fun x s => ⟨exec_ldVxK_of_no_key, fun hkeys => ?_, fun k hk hdown => ?_⟩
  · obtain ⟨k, hkey⟩ := Option.ne_none_iff_exists'.mp (mt (anyPressed_none _ s.input.pick).mp hkeys)
    obtain ⟨t, hexec, rfl, hpc, hframe⟩ := exec_ldVxK_loads (x := x) hkey
    obtain ⟨hlt, hdown⟩ := anyPressed_some hkey
    exact ⟨t, hexec, hlt, hdown, hpc, hframe⟩
  · obtain ⟨pick, hkey⟩ := anyPressed_any hk hdown
    obtain ⟨t, hexec, hreg, -⟩ := exec_ldVxK_loads (x := x)
      (s := { s with script := [{ s.input with pick := pick }] }) hkey
    exact ⟨pick, t, hexec, hreg⟩

end Sys2Proof.Machine
end

section
/-! PROOFS. The unimplemented family (48_unimplemented.md R135): which words are `SYS`, and that it only
advances `PC`. -/

namespace Sys2Proof.Machine

/-- Exactly the well-formed instructions are read back from their own word. -/
theorem decodeWord_encode_iff_wf {strict : Bool} {i : Instr} :
    decodeWord strict (encode i) = .ok i ↔ i.wf strict = true :=
  ⟨fun h => (decodedWordLiesInItsTableRow strict _ i h).1, decodeWord_encode⟩

theorem wf_sys_iff {nnn : Addr} :
    (Instr.sys nnn).wf Config.strictDecode = true ↔
      nnn.toNat % 0x100 ≠ 0xE0 ∧ nnn.toNat % 0x100 ≠ 0xEE := by
  simp [Instr.wf, sysReserved, Config.strictDecode, BitVec.toNat_eq]

/-- The word of `SYS addr` is its address field. -/
theorem ofNat_addr_eq_encode_sys (nnn : Addr) : BitVec.ofNat 16 nnn.toNat = encode (.sys nnn) := by
  apply BitVec.eq_of_toNat_eq
  rw [encode, packA_toNat, BitVec.toNat_ofNat, BitVec.toNat_ofNat]
  omega

/-! ### The obligations -/

/-- Settles O58: a class-0 word is that of `SYS` when `SYS` with its field is well formed. -/
theorem sysIsANoOp : Obligations.SysIsANoOp := by
  refine fun nnn s => ⟨?_, _, rfl, rfl, exec_frame (i := .sys nnn) rfl rfl⟩
  rw [Decodes, ofNat_addr_eq_encode_sys, decodeWord_encode_iff_wf, wf_sys_iff]

end Sys2Proof.Machine
end

section
/-! PROOFS. The fatal errors (60_exceptions.md R136 to R146): the `STATE` an instruction leaves, and the
whole state of a machine that a step halts. -/

namespace Sys2Proof.Machine

variable {i : Instr} {s t : State} {e : FatalError}

/-- No footprint has `STATE`: only a fatal error writes it. -/
theorem footprint_status (s : State) (i : Instr) : (footprint s i).status = false := by
  cases i <;> rfl

theorem exec_status_of_passes (hr : raises s i = none) (h : exec i s = .next t) :
    t.status = s.status :=
  (exec_frame hr h).status (footprint_status s i)

/-- An instruction that halts a running machine has taken a fatal error and done nothing else. -/
theorem exec_eq_raise_of_halted (hrun : s.status = .running) (h : exec i s = .next t)
    (ht : t.status = .halted e) : t = s.raise e := by
  cases hr : raises s i with
  | none =>
    have hstatus := exec_status_of_passes hr h
    rw [ht, hrun] at hstatus
    cases hstatus
  | some e' =>
    cases (exec_of_raises hr).symm.trans h
    cases ht
    rfl

/-- Where the fetch, the decode or the instruction's own check halts the machine, `OP` has been written
exactly when the fetch succeeded (60_exceptions.md R140). -/
theorem State.runInstruction_eq_raise_of_halted {p : Params} (hrun : s.status = .running)
    (h : s.runInstruction p = .next t) (ht : t.status = .halted e) :
    t = (s.setOp (if s.pc.toNat ≤ 0xFFE then s.wordAtPc else s.op)).raise e := by
  obtain ⟨hpc, rfl⟩ | ⟨w, hpc, rfl, ⟨-, rfl⟩ | ⟨i, -, hexec⟩⟩ := State.runInstruction_cases h
  · cases ht
    rw [if_neg hpc.not_ge]
    rfl
  · cases ht
    rw [if_pos hpc]
    rfl
  · rw [if_pos hpc]
    exact exec_eq_raise_of_halted hrun hexec ht

/-- The whole next state of a step that halts: no tick falls after it. -/
theorem step_eq_of_halted (h : step s = .next t) (ht : t.status = .halted e) :
    t = { s with
      status := .halted e, op := if s.pc.toNat ≤ 0xFFE then s.wordAtPc else s.op, calls := [],
      audio := s.audioOn, script := s.script.tail, draws := s.draws + 1 } := by
  obtain ⟨hrun, ⟨-, rfl⟩ | ⟨-, u, hu, rfl⟩⟩ := stepWith_cases h
  · cases ht
  · rw [State.betweenSteps_status, State.reportAudio_status] at ht
    rw [State.runInstruction_eq_raise_of_halted (s := s.beginStep) hrun hu ht,
      State.betweenSteps_of_ended (by simp)]
    rfl

/-! ### The obligations -/

/-- Settles O19: a failing check takes its error, and an instruction whose check passes has no `STATE`
in its footprint. -/
theorem fatalErrorsExactly : Obligations.FatalErrorsExactly := by
  intro i s
  cases hr : raises s i with
  | some e => exact ⟨_, exec_of_raises hr, rfl⟩
  | none =>
    obtain ⟨t, hexec⟩ := exec_next i s
    exact ⟨t, hexec, exec_status_of_passes hr hexec⟩

/-- Settles O15, by the whole state that a halting step leaves (`step_eq_of_halted`). -/
theorem haltingStepIsPrecise : Obligations.HaltingStepIsPrecise := by
  intro s t e h ht
  rw [step_eq_of_halted h ht]
  exact ⟨rfl, rfl, rfl, rfl, rfl, rfl, rfl, rfl, rfl, rfl, rfl⟩

end Sys2Proof.Machine
end

section
/-! PROOFS. The host's moves (70_reset_and_hazards.md R160 to R176): the three outcomes of a load, and
that each move keeps the invariant. -/

namespace Sys2Proof.Machine

variable {s : State}

/-! ### What a load leaves in a running machine -/

section
variable {rom : List Byte}

theorem State.host_load_unreadable (hrun : s.status = .running) :
    s.host (.load none) = s.raise .ioFault := State.hostLoad_running s none hrun

theorem State.host_load_of_fits (hrun : s.status = .running) (hfits : rom.length ≤ 3584) :
    s.host (.load (some rom)) = { s with mem := s.mem.writeBytes 0x200 rom } :=
  (State.hostLoad_running s (some rom) hrun).trans (if_neg hfits.not_gt)

theorem State.host_load_of_too_long (hrun : s.status = .running) (hlong : 3584 < rom.length) :
    s.host (.load (some rom)) = s.raise (.outOfMemory 0x200#16 rom.length) :=
  (State.hostLoad_running s (some rom) hrun).trans (if_pos hlong)

end

/-- Whatever the image, a load writes `STATE` or `MEM` and keeps `PC`. -/
theorem State.host_load_pc (hrun : s.status = .running) (rom : Option (List Byte)) :
    (s.host (.load rom)).pc = s.pc := by
  have hload : s.host (.load rom) = s.loadRom rom := State.hostLoad_running s rom hrun
  rw [hload]
  obtain ⟨e, heq⟩ | ⟨bytes, -, -, heq⟩ := State.loadRom_cases s rom
  · rw [heq, State.raise_pc]
  · rw [heq]

/-- The `k`-th byte written is read back at its place. -/
theorem Memory.read_writeBytes_of_lt (m : Memory) (a : Nat) {bytes : List Byte} {k : Nat}
    (h : k < bytes.length) : (m.writeBytes a bytes).read (a + k) = bytes[k] := by
  rw [Memory.read_writeBytes, if_pos (by omega), Nat.add_sub_cancel_left,
    List.getD_eq_getElem _ _ h]

/-! ### The invariant under a load -/

/-- A load keeps the invariant: an image that is written ends at most at 0xFFF. -/
theorem State.Inv.loadRom (hs : s.Inv) (rom : Option (List Byte)) : (s.loadRom rom).Inv := by
  obtain ⟨e, heq⟩ | ⟨bytes, -, hlen, heq⟩ := State.loadRom_cases s rom
  · rw [heq]
    exact hs.congr rfl rfl rfl rfl rfl
  · rw [heq]
    have hfits : 0x200 + bytes.length ≤ memSize := Nat.add_le_add_left hlen 0x200
    exact { hs with mem := Memory.wf_writeBytes (Or.inr hfits) hs.mem }

theorem State.Inv.hostLoad (hs : s.Inv) (rom : Option (List Byte)) : (s.hostLoad rom).Inv := by
  by_cases hrun : s.status = .running
  · rw [State.hostLoad_running s rom hrun]
    exact hs.loadRom rom
  · rwa [State.hostLoad_ended s rom hrun]

/-! ### The obligations -/

/-- Settles O59, by whether the image is readable and whether it fits. -/
theorem loadCopiesRom : Obligations.LoadCopiesRom := by
  intro s hrun
  rw [State.host_load_unreadable hrun]
  refine ⟨rfl, rfl, (Frame.refl _ s).raise rfl _, fun rom =>
    ⟨State.host_load_pc hrun _, fun hfits => ?_, fun hlong => ?_⟩⟩
  · rw [State.host_load_of_fits hrun hfits]
    exact ⟨fun k => Memory.read_writeBytes_of_lt s.mem 0x200,
      (Frame.refl _ s).writeBytes fun _ => span_eq_true⟩
  · rw [State.host_load_of_too_long hrun hlong]
    exact ⟨rfl, (Frame.refl _ s).raise rfl _⟩

/-- Settles O17: RESET leaves a reset state, LOAD keeps the invariant for every image, and the other
moves write nothing that it reads. -/
theorem hostMovesKeepInvariant : Obligations.HostMovesKeepInvariant := by
  intro s m hs
  cases m with
  | reset =>
    rw [State.host_reset]
    exact resetSatisfiesInvariant.1.congr rfl rfl rfl rfl rfl
  | load rom => exact hs.hostLoad rom
  | quit => exact hs.congr rfl rfl rfl rfl rfl
  | tickDt =>
    rw [State.host, State.hostWith, State.ticksDt_eq]
    exact hs.congr rfl rfl rfl rfl rfl
  | tickSt =>
    rw [State.host, State.hostWith, State.ticksSt_eq]
    exact hs.congr rfl rfl rfl rfl rfl

end Sys2Proof.Machine
end
